-- ==== Sys2Proof/Word.lean ====
section
/-! DEFINITION. The word types of THE CORE: every host-visible register, host address and flash address is a 32-bit
unsigned value, a status byte or data byte has 8 bits (spec/00_scope.md R14, R18). -/

namespace Sys2Proof

/-- A 32-bit register, host address or flash address (R14). -/
abbrev Word := BitVec 32

/-- An 8-bit datum: an instruction code, a status byte, a byte of a buffer (R8, R10, R85). -/
abbrev Byte := BitVec 8

/-- The address field of a 3-byte command (R14). -/
abbrev Addr24 := BitVec 24

end Sys2Proof
end

