-- ==== Sys2Proof/Config.lean ====
section
/-! DEFINITION. What an implementation fixes (spec/00_scope.md R6 to R13) and the values the spec leaves free.
SECTOR_SIZE and PAGE_SIZE are parameters with the spec's values as defaults (spec/93 I1); every other parameter is open, so the machine's
parameters after reset are a constant with no body. -/

namespace Sys2Proof

/-- STATUS_BYTES, the byte width of the device's status register (R11). -/
def statusBytes : Nat := 1

/-- The platform parameters of THE CORE (R6 to R13). The flash has `lastSector + 1` sectors, so that
FLASH_SIZE is positive and a multiple of SECTOR_SIZE by form (R7). -/
structure Params where
  /-- SECTOR_SIZE (R6). UNVERIFIED: the spec marks the default as an unaudited literal (spec/93 I1); log entry 22. -/
  sectorSize : Nat := 65536
  /-- PAGE_SIZE (R6). UNVERIFIED: the spec marks the default as an unaudited literal (spec/93 I1); log entry 22. -/
  pageSize : Nat := 256
  /-- the number of the last sector: SECTOR_COUNT - 1 (R6, R7) -/
  lastSector : Nat
  cmdWren : Byte
  cmdRsten : Byte
  cmdRstmem : Byte
  cmdEn4b : Byte
  cmdRdsr : Byte
  cmdPp3 : Byte
  cmdPp4 : Byte
  cmdQfr3 : Byte
  cmdQfr4 : Byte
  cmdSe3 : Byte
  cmdSe4 : Byte
  cmdCe : Byte
  /-- DUMMY_QFR, 0..31 (R9) -/
  dummyQfr : BitVec 5
  /-- BUSY_MASK (R10) -/
  busyMask : Byte
  /-- WEL_MASK (R10) -/
  welMask : Byte
  /-- POLL_INTERVAL, 0..65535 (R11) -/
  pollInterval : BitVec 16
  /-- the six timeout budgets (R12); no rule of the model reads one -/
  tWe : Nat
  tReset : Nat
  t4b : Nat
  tProgram : Nat
  tSector : Nat
  tChip : Nat
  /-- REG_BASE, the host address of the register block (R13) -/
  regBase : Word
  /-- MM_BASE, the host address of the memory-mapped window (R13) -/
  mmBase : Word
  /-- MM_TIMEOUT_CFG, opaque (R13, spec/30 R123); DESIGN CHOICE its width of 32 bits, log entry 16 -/
  mmTimeoutCfg : Word
  /-- HOST_MEM_OK (R13), as a list of (first address, length) -/
  hostMem : List (Nat × Nat)
  deriving DecidableEq, Repr, Inhabited

/-- The platform's parameters before they are checked: a free value. Log entry 1. -/
opaque Config.raw : Params

/-- The byte that a failed RxData leaves in a destination byte, by the count of free bytes used so far: a free value
(spec/44_read_write.md R241 `any`, spec/93 I7). Log entry 9. -/
opaque Config.freeByte : Nat → Byte

/-- The byte the window shows for a flash address within one memory-mapped period: a free value, the same for every read of
that period (spec/20_memory.md R97, spec/93 I8). Log entry 10. -/
opaque Config.windowByte : Nat → Nat → Byte

end Sys2Proof
end

