-- ==== Sys2Proof/Machine/Geometry.lean ====
section
/-! DEFINITION. The device geometry, the platform's address map and the constraints the spec puts on the parameters
(spec/00_scope.md R6 to R13, spec/20_memory.md R81 to R84, R94). -/

namespace Sys2Proof

/-- SECTOR_COUNT (R6). -/
def Params.sectorCount (p : Params) : Nat := p.lastSector + 1

/-- FLASH_SIZE in bytes (R6): SECTOR_COUNT sectors, so that R7's division is exact. -/
def Params.flashSize (p : Params) : Nat := p.sectorSize * p.sectorCount

/-- PAGE_COUNT = FLASH_SIZE / PAGE_SIZE (R6). -/
def Params.pageCount (p : Params) : Nat := p.flashSize / p.pageSize

/-- The page of `P` bytes that holds flash byte `a` (R81). -/
def pageOf (P a : Nat) : Nat := a / P

/-- The sector of `S` bytes that holds flash byte `a` (R81). -/
def sectorOf (S a : Nat) : Nat := a / S

/-- The boundary of a sector of `S` bytes at or below `a` (R81, spec/45 R273). -/
def sectorBase (S a : Nat) : Nat := a - a % S

/-- A program frame of `n` bytes at `a` lies in one page of `P` bytes (spec/44 R254). -/
def inOnePage (P a n : Nat) : Bool := n == 0 || pageOf P a == pageOf P (a + n - 1)

/-- Host address `a` lies in the range `r` (first address, length). -/
def inRange (r : Nat × Nat) (a : Nat) : Bool := decide (r.1 ≤ a) && decide (a < r.1 + r.2)

/-- HOST_MEM_OK(a) (R13, spec/20 R82). -/
def Params.hostMemOk (p : Params) (a : Nat) : Bool :=
  p.hostMem.any fun r => inRange r a

/-- HOST_MEM_OK(a + i) for every i < n (spec/60 R320 step 4). -/
def Params.bufferOk (p : Params) (a : Nat) : Nat → Bool
  | 0 => true
  | n + 1 => p.bufferOk a n && p.hostMemOk (a + n)

/-- The budget of a timeout class (spec/30 R122); no rule of the model reads it. -/
def Params.budgets (p : Params) : List Nat := [p.tWe, p.tReset, p.t4b, p.tProgram, p.tSector, p.tChip]

/-- The command codes by kind, a kind with two codes listed once for each (R8). -/
def Params.codes (p : Params) : List (Nat × Byte) :=
  [(0, p.cmdWren), (1, p.cmdRsten), (2, p.cmdRstmem), (3, p.cmdEn4b), (4, p.cmdRdsr), (5, p.cmdPp3), (5, p.cmdPp4),
   (6, p.cmdQfr3), (6, p.cmdQfr4), (7, p.cmdSe3), (7, p.cmdSe4), (8, p.cmdCe)]

/-- The codes of different kinds differ; a 3-byte code may equal its 4-byte twin (spec/30 R127). -/
def Params.codesDistinct (p : Params) : Bool :=
  p.codes.all fun c => p.codes.all fun d => c.1 == d.1 || c.2 != d.2

/-- Two host address ranges (first address, length) share no byte (spec/20 R94). -/
def disjoint (r q : Nat × Nat) : Bool := r.2 == 0 || q.2 == 0 || decide (r.1 + r.2 ≤ q.1) || decide (q.1 + q.2 ≤ r.1)

/-- The register block [REG_BASE, REG_BASE + 0x28) (spec/20 R83). -/
def Params.regBlock (p : Params) : Nat × Nat := (p.regBase.toNat, 0x28)

/-- The memory-mapped window [MM_BASE, MM_BASE + FLASH_SIZE) (spec/20 R84). -/
def Params.mmWindow (p : Params) : Nat × Nat := (p.mmBase.toNat, p.flashSize)

/-- The host address map: every range lies in the 32-bit host address space (DEDUCED from R14, log entry 2), and the register
block, the window and the buffers do not overlap (spec/20 R94). -/
def Params.mapOk (p : Params) : Bool :=
  let ranges := p.regBlock :: p.mmWindow :: p.hostMem
  ranges.all (fun r => decide (r.1 + r.2 ≤ 2 ^ 32)) && disjoint p.regBlock p.mmWindow
    && p.hostMem.all fun r => disjoint r p.regBlock && disjoint r p.mmWindow

/-- The constraints of the spec on the parameters: 0 < FLASH_SIZE <= 2^32 - SECTOR_SIZE and PAGE_SIZE divides it (R7; SECTOR_SIZE divides it by
form), the codes (R8, spec/30 R127), the
masks nonzero and disjoint (R10), the order of the budgets (R12) and the address map (spec/20 R94). -/
def Params.valid (p : Params) : Bool :=
  decide (0 < p.sectorSize) && decide (0 < p.pageSize) && p.flashSize % p.pageSize == 0
    && decide (p.flashSize ≤ 2 ^ 32 - p.sectorSize) && p.codesDistinct
    && p.busyMask != 0 && p.welMask != 0 && p.busyMask &&& p.welMask == 0
    && p.tWe == p.tReset && p.tReset == p.t4b && p.t4b == p.tProgram
    && decide (p.tProgram < p.tSector) && decide (p.tSector < p.tChip) && p.mapOk

/-- One choice of parameters that meets the constraints, with the example values of spec/95_test_vectors.md and spec/93 GK4
for orientation only: tests use it, and `Config.params` falls back on it where `Config.raw` is no legal choice. Log entry 1. -/
def Params.sample : Params where
  lastSector := 1023
  cmdWren := 0x06
  cmdRsten := 0x66
  cmdRstmem := 0x99
  cmdEn4b := 0xB7
  cmdRdsr := 0x05
  cmdPp3 := 0x32
  cmdPp4 := 0x34
  cmdQfr3 := 0x6B
  cmdQfr4 := 0x6C
  cmdSe3 := 0xD8
  cmdSe4 := 0xDC
  cmdCe := 0xC7
  dummyQfr := 8
  busyMask := 0x01
  welMask := 0x02
  pollInterval := 0x0010
  tWe := 1
  tReset := 1
  t4b := 1
  tProgram := 1
  tSector := 2
  tChip := 3
  regBase := 0xA0001000
  mmBase := 0x90000000
  mmTimeoutCfg := 0
  hostMem := [(0x20000000, 0x10000)]

/-- SECTOR_SIZE and PAGE_SIZE at the spec's values (R6, spec/93 I1). -/
def Params.withDefaultSizes (p : Params) : Params := { p with sectorSize := 65536, pageSize := 256 }

/-- The platform's parameters: SECTOR_SIZE and PAGE_SIZE at the spec's values, the others any legal choice, and nothing in Lean says which.
Log entries 1 and 22. -/
@[irreducible] def Config.params : Params :=
  Params.withDefaultSizes (if Config.raw.withDefaultSizes.valid then Config.raw else Params.sample)

end Sys2Proof
end

