-- ==== Sys2Proof/Syntax.lean ====
section
/-! DEFINITION. The instruction set: the nine host requests and the twelve frame kinds THE CORE emits, one constructor for each row
of spec/opcode_table.json, and the records the instructions are made of (spec/30_encoding.md). -/

namespace Sys2Proof

/-- One instruction. A request carries no operand: its operands are ARG0 to ARG2, latched at acceptance
(spec/30_encoding.md R113). A frame carries the flash address and the data length its kind has (R126). -/
inductive Instr where
  /-- INIT, REQ word 0x1 (spec/43 R211) -/
  | init
  /-- READ, REQ word 0x2 (spec/44 R240) -/
  | read
  /-- WRITE, REQ word 0x3 (spec/44 R250) -/
  | write
  /-- ERASE_SECTOR_RANGE, REQ word 0x4 (spec/45 R270) -/
  | erase
  /-- ERASE_CHIP, REQ word 0x5 (spec/45 R280) -/
  | eraseChip
  /-- GET_STATUS, REQ word 0x6 (spec/46 R290) -/
  | getStatus
  /-- GET_GEOMETRY, REQ word 0x7 (spec/46 R295) -/
  | getGeometry
  /-- ENTER_MEMORY_MAPPED, REQ word 0x8 (spec/43 R225) -/
  | enterMm
  /-- ENTER_4BYTE, REQ word 0x9 (spec/43 R220) -/
  | enter4b
  /-- write enable frame (spec/40 R160) -/
  | wren
  /-- reset enable frame (R161) -/
  | rsten
  /-- reset memory frame (R162) -/
  | rstmem
  /-- enter 4-byte address mode frame (R163) -/
  | en4b
  /-- read status register frame (R164) -/
  | rdsr
  /-- quad page program, 3-byte address (R165) -/
  | pp3 (addr : Addr24) (len : Word)
  /-- quad page program, 4-byte address (R166) -/
  | pp4 (addr : Word) (len : Word)
  /-- quad fast read, 3-byte address (R167) -/
  | qfr3 (addr : Addr24) (len : Word)
  /-- quad fast read, 4-byte address (R168) -/
  | qfr4 (addr : Word) (len : Word)
  /-- sector erase, 3-byte address (R169) -/
  | se3 (addr : Addr24)
  /-- sector erase, 4-byte address (R170) -/
  | se4 (addr : Word)
  /-- chip erase frame (R171) -/
  | ce
  deriving DecidableEq, Repr

/-- Where an instruction's words stand: the host's REQ register (format REQ) or the outbound descriptor register
(format CMD) (spec/30_encoding.md, opening). -/
inductive Port where
  | req
  | cmd
  deriving DecidableEq, Repr

/-- The logical kinds of the encoder function Desc (spec/40_command_encoder.md R150). -/
inductive Kind where
  | wren | rsten | rstmem | en4b | rdsr | pp | qfr | se | ce
  deriving DecidableEq, Repr

/-- AWIDTH (R115); the encoding 11 is reserved and never emitted (R119). -/
inductive AWidth where
  | none | a24 | a32
  deriving DecidableEq, Repr

/-- DDIR (R115); the encoding 11 is reserved and never emitted (R119). -/
inductive DDir where
  | none | read | write
  deriving DecidableEq, Repr

/-- DWIDTH (R115): single line or quad. -/
inductive DWidth where
  | x1 | x4
  deriving DecidableEq, Repr

/-- A command descriptor by its fields (spec/30_encoding.md R115). ADDR_PRESENT is no field of its own: it is
AWIDTH ≠ none (R116). -/
structure CmdDesc where
  instr : Byte
  awidth : AWidth
  addr : Word
  ddir : DDir
  dwidth : DWidth
  dummy : BitVec 5
  dlen : Word
  deriving DecidableEq, Repr

/-- MODE of a poll descriptor (R120, R121). -/
inductive PollMode where
  | bitsSet | bitsClear
  deriving DecidableEq, Repr

/-- A poll descriptor by its fields (R120). -/
structure PollDesc where
  srInstr : Byte
  mode : PollMode
  autoStop : Bool
  srBytesM1 : BitVec 2
  interval : BitVec 16
  mask : Word
  deriving DecidableEq, Repr

/-- POLL_CLASS, the timeout class of an auto-poll (R122); the codes 6 and 7 are reserved and never emitted. -/
inductive PollClass where
  | we | reset | mode4b | program | sector | chip
  deriving DecidableEq, Repr

/-- The result codes of a request (spec/60_exceptions.md R300); the codes 5 to 7 are reserved and never written. -/
inductive ResultCode where
  | ok | transportError | busy | timeoutError | notSupported
  deriving DecidableEq, Repr

end Sys2Proof
end

