-- ==== Sys2Proof/WellFormed.lean ====
section
/-! DEFINITION. Which instruction terms THE CORE can meet: every request, and the frames whose operands satisfy the
corner-case bounds of spec/40_command_encoder.md R165 to R170. -/

namespace Sys2Proof

/-- The bounds of a frame's operands. PP: at most a page, inside one page, inside the flash (R165, R166). QFR: inside the
flash, and in 3-byte mode below 2^24 (R167, R168). SE: a sector boundary inside the flash (R169, R170). -/
def Instr.wf (p : Params) : Instr → Bool
  | .init | .read | .write | .erase | .eraseChip | .getStatus | .getGeometry | .enterMm | .enter4b => true
  | .wren | .rsten | .rstmem | .en4b | .rdsr | .ce => true
  | .pp3 a n =>
    decide (n.toNat ≤ p.pageSize) && inOnePage p.pageSize a.toNat n.toNat && decide (a.toNat < p.flashSize)
      && decide (a.toNat + n.toNat ≤ p.flashSize)
  | .pp4 a n =>
    decide (n.toNat ≤ p.pageSize) && inOnePage p.pageSize a.toNat n.toNat && decide (a.toNat < p.flashSize)
      && decide (a.toNat + n.toNat ≤ p.flashSize)
  | .qfr3 a n =>
    decide (a.toNat < p.flashSize) && decide (a.toNat + n.toNat ≤ p.flashSize) && decide (a.toNat + n.toNat ≤ 2 ^ 24)
  | .qfr4 a n => decide (a.toNat < p.flashSize) && decide (a.toNat + n.toNat ≤ p.flashSize)
  | .se3 a => a.toNat % p.sectorSize == 0 && decide (a.toNat < p.flashSize)
  | .se4 a => a.toNat % p.sectorSize == 0 && decide (a.toNat < p.flashSize)

end Sys2Proof
end

