-- ==== Sys2Proof/Decode.lean ====
section
/-! DEFINITION. From words to instructions and back (spec/30_encoding.md). A request is one REQ word (R110 to R112); a frame is the
three words of a command descriptor (R115 to R119, R126). Both decoders are total and refuse by name. Then the encoder, the bit
layouts of the registers, and the reading of an opcode-table word. -/

namespace Sys2Proof

/-- Why a word is no instruction. -/
inductive Reject where
  /-- a REQ word other than 0x1 .. 0x9 (R112) -/
  | illegalRequest
  /-- DW0[31:21] is not 0 (R119) -/
  | reservedBits
  /-- DW0[15:8] is none of the eight layouts of R126 -/
  | unknownLayout
  /-- INSTR is not the code of the kind (R127) -/
  | unknownCommand
  /-- DUMMY is not the kind's dummy count (R126) -/
  | wrongDummy
  /-- DW1 is not 0 for a kind without an address, or has bits above 23 for a 24-bit field (R117) -/
  | wrongAddress
  /-- DW2 is not the kind's fixed data length (R118) -/
  | wrongLength
  /-- a request is one word, a frame three (R130) -/
  | wrongWordCount
  deriving DecidableEq, Repr

/-- The port of an instruction: requests come in through REQ, frames go out through CMD_DESC. -/
def Instr.port : Instr → Port
  | .init | .read | .write | .erase | .eraseChip | .getStatus | .getGeometry | .enterMm | .enter4b => .req
  | .wren | .rsten | .rstmem | .en4b | .rdsr | .pp3 _ _ | .pp4 _ _ | .qfr3 _ _ | .qfr4 _ _ | .se3 _ | .se4 _ | .ce => .cmd

/-- The frames that change the device (R128). -/
def Instr.mutating : Instr → Bool
  | .pp3 _ _ | .pp4 _ _ | .se3 _ | .se4 _ | .ce => true
  | .init | .read | .write | .erase | .eraseChip | .getStatus | .getGeometry | .enterMm | .enter4b => false
  | .wren | .rsten | .rstmem | .en4b | .rdsr | .qfr3 _ _ | .qfr4 _ _ => false

/-! ### Requests (R110 to R112) -/

/-- The request a REQ word stands for: RSV = w[31:4] must be 0 and OP = w[3:0] one of 0x1 .. 0x9. -/
def decodeRequest (w : Word) : Except Reject Instr :=
  match w.toNat with
  | 0x1 => .ok .init
  | 0x2 => .ok .read
  | 0x3 => .ok .write
  | 0x4 => .ok .erase
  | 0x5 => .ok .eraseChip
  | 0x6 => .ok .getStatus
  | 0x7 => .ok .getGeometry
  | 0x8 => .ok .enterMm
  | 0x9 => .ok .enter4b
  | _ => .error .illegalRequest

/-! ### Command descriptors (R115 to R119) -/

/-- AWIDTH's two bits. -/
def AWidth.bits : AWidth → BitVec 2
  | .none => 0b00
  | .a24 => 0b01
  | .a32 => 0b10

/-- DDIR's two bits. -/
def DDir.bits : DDir → BitVec 2
  | .none => 0b00
  | .read => 0b01
  | .write => 0b10

/-- DWIDTH's bit. -/
def DWidth.bits : DWidth → BitVec 1
  | .x1 => 0
  | .x4 => 1

/-- ADDR_PRESENT = 1 iff AWIDTH is not none (R116). -/
def CmdDesc.addrPresent (d : CmdDesc) : Bool := d.awidth != .none

/-- DW0 (R115): 0[31:21] DUMMY[20:16] 0[15:14] DWIDTH[13] DDIR[12:11] AWIDTH[10:9] ADDR_PRESENT[8] INSTR[7:0]. -/
def CmdDesc.dw0 (d : CmdDesc) : Word :=
  0#11 ++ d.dummy ++ 0#2 ++ d.dwidth.bits ++ d.ddir.bits ++ d.awidth.bits ++ BitVec.ofBool d.addrPresent ++ d.instr

/-- The three words of a descriptor: DW0, DW1 = ADDR, DW2 = DLEN (R115). -/
def CmdDesc.words (d : CmdDesc) : List Word := [d.dw0, d.addr, d.dlen]

/-- The descriptor of a frame without address and data: WREN, RSTEN, RSTMEM, EN4B and CE (R126). -/
def plainDesc (code : Byte) : CmdDesc where
  instr := code
  awidth := .none
  addr := 0
  ddir := .none
  dwidth := .x1
  dummy := 0
  dlen := 0

/-- The descriptor of RDSR: single-line read of STATUS_BYTES bytes (R126). -/
def statusDesc (code : Byte) : CmdDesc :=
  { plainDesc code with ddir := .read, dlen := BitVec.ofNat 32 statusBytes }

/-- The descriptor of a quad page program of `n` bytes at `a` (R126). -/
def programDesc (code : Byte) (width : AWidth) (a n : Word) : CmdDesc where
  instr := code
  awidth := width
  addr := a
  ddir := .write
  dwidth := .x4
  dummy := 0
  dlen := n

/-- The descriptor of a quad fast read of `n` bytes at `a` (R126). -/
def quadReadDesc (code : Byte) (width : AWidth) (dummy : BitVec 5) (a n : Word) : CmdDesc where
  instr := code
  awidth := width
  addr := a
  ddir := .read
  dwidth := .x4
  dummy := dummy
  dlen := n

/-- The descriptor of a sector erase at `a` (R126). -/
def sectorDesc (code : Byte) (width : AWidth) (a : Word) : CmdDesc :=
  { plainDesc code with awidth := width, addr := a }

/-- ADDR of a 24-bit field: the address zero-extended (R117). -/
def zext24 (a : Addr24) : Word := a.setWidth 32

/-- a[23:0] (R117, spec/40 R153). -/
def low24 (a : Word) : Addr24 := a.setWidth 24

/-- The descriptor of a frame (R126); a request has none. -/
def frameDesc (p : Params) : Instr → Option CmdDesc
  | .wren => some (plainDesc p.cmdWren)
  | .rsten => some (plainDesc p.cmdRsten)
  | .rstmem => some (plainDesc p.cmdRstmem)
  | .en4b => some (plainDesc p.cmdEn4b)
  | .rdsr => some (statusDesc p.cmdRdsr)
  | .pp3 a n => some (programDesc p.cmdPp3 .a24 (zext24 a) n)
  | .pp4 a n => some (programDesc p.cmdPp4 .a32 a n)
  | .qfr3 a n => some (quadReadDesc p.cmdQfr3 .a24 p.dummyQfr (zext24 a) n)
  | .qfr4 a n => some (quadReadDesc p.cmdQfr4 .a32 p.dummyQfr a n)
  | .se3 a => some (sectorDesc p.cmdSe3 .a24 (zext24 a))
  | .se4 a => some (sectorDesc p.cmdSe4 .a32 a)
  | .ce => some (plainDesc p.cmdCe)
  | .init | .read | .write | .erase | .eraseChip | .getStatus | .getGeometry | .enterMm | .enter4b => none

/-- DW0[7:0], the instruction code (R115). -/
def instrField (dw0 : Word) : Byte := dw0.extractLsb' 0 8

/-- DW0[15:8], the fields that tell the layouts of R126 apart: reserved, DWIDTH, DDIR, AWIDTH, ADDR_PRESENT. -/
def layoutField (dw0 : Word) : Byte := dw0.extractLsb' 8 8

/-- DW0[20:16], the dummy-cycle count (R115). -/
def dummyField (dw0 : Word) : BitVec 5 := dw0.extractLsb' 16 5

/-- DW0[31:21], reserved (R119). -/
def reservedField (dw0 : Word) : BitVec 11 := dw0.extractLsb' 21 11

/-- The frame kinds that share one layout (R127), each as the instruction it gives for the operands, with its code. WREN, RSTEN, RSTMEM,
EN4B and CE have the same DW0[31:8]. -/
def layoutFrames (p : Params) (layout : Byte) (addr len : Word) : List (Byte × Instr) :=
  match layout.toNat with
  | 0x00 => [(p.cmdWren, .wren), (p.cmdRsten, .rsten), (p.cmdRstmem, .rstmem), (p.cmdEn4b, .en4b), (p.cmdCe, .ce)]
  | 0x08 => [(p.cmdRdsr, .rdsr)]
  | 0x33 => [(p.cmdPp3, .pp3 (low24 addr) len)]
  | 0x35 => [(p.cmdPp4, .pp4 addr len)]
  | 0x2B => [(p.cmdQfr3, .qfr3 (low24 addr) len)]
  | 0x2D => [(p.cmdQfr4, .qfr4 addr len)]
  | 0x03 => [(p.cmdSe3, .se3 (low24 addr))]
  | 0x05 => [(p.cmdSe4, .se4 addr)]
  | _ => []

/-- The candidate whose code is INSTR (R127). -/
def pickFrame (code : Byte) : List (Byte × Instr) → Option Instr
  | [] => none
  | c :: cs => if c.1 = code then some c.2 else pickFrame code cs

/-- The fixed parts of a kind's words against the words given: DUMMY, DW1, DW2 (R117, R118, R126). -/
def checkFrame (p : Params) (i : Instr) (dummy : BitVec 5) (dw1 dw2 : Word) : Except Reject Instr :=
  match frameDesc p i with
  | none => .error .unknownLayout
  | some d =>
    if d.dummy ≠ dummy then .error .wrongDummy
    else if d.addr ≠ dw1 then .error .wrongAddress
    else if d.dlen ≠ dw2 then .error .wrongLength
    else .ok i

/-- The frame the words of a command descriptor stand for (R115 to R119, R126, R127). -/
def decodeFrame (p : Params) (dw0 dw1 dw2 : Word) : Except Reject Instr :=
  if reservedField dw0 ≠ 0 then .error .reservedBits
  else
    match layoutFrames p (layoutField dw0) dw1 dw2 with
    | [] => .error .unknownLayout
    | c :: cs =>
      match pickFrame (instrField dw0) (c :: cs) with
      | none => .error .unknownCommand
      | some i => checkFrame p i (dummyField dw0) dw1 dw2

/-- Decoding at a port: one word at REQ, three at CMD (R130). -/
def decode (p : Params) : Port → List Word → Except Reject Instr
  | .req, [w] => decodeRequest w
  | .cmd, [dw0, dw1, dw2] => decodeFrame p dw0 dw1 dw2
  | _, _ => .error .wrongWordCount

/-! ### The encoder -/

/-- The OP of a request (R111); 0, which is no OP, for a frame. -/
def requestOp : Instr → BitVec 4
  | .init => 0x1
  | .read => 0x2
  | .write => 0x3
  | .erase => 0x4
  | .eraseChip => 0x5
  | .getStatus => 0x6
  | .getGeometry => 0x7
  | .enterMm => 0x8
  | .enter4b => 0x9
  | .wren | .rsten | .rstmem | .en4b | .rdsr | .pp3 _ _ | .pp4 _ _ | .qfr3 _ _ | .qfr4 _ _ | .se3 _ | .se4 _ | .ce => 0x0

/-- The REQ word of a request: OP in bits 3:0, RSV = 0 (R110). -/
def requestWord (i : Instr) : Word := 0#28 ++ requestOp i

/-- The words of an instruction: the REQ word of a request, the three descriptor words of a frame. -/
def encode (p : Params) (i : Instr) : List Word :=
  match frameDesc p i with
  | some d => d.words
  | none => [requestWord i]

/-! ### Poll descriptors (R120 to R122) -/

/-- MODE's bit (R120). -/
def PollMode.bit : PollMode → BitVec 1
  | .bitsSet => 0
  | .bitsClear => 1

/-- PW0 (R120): INTERVAL[31:16] 0[15:12] SR_BYTES_M1[11:10] AUTO_STOP[9] MODE[8] SR_INSTR[7:0]. -/
def PollDesc.pw0 (p : PollDesc) : Word :=
  p.interval ++ 0#4 ++ p.srBytesM1 ++ BitVec.ofBool p.autoStop ++ p.mode.bit ++ p.srInstr

/-- POLL_CLASS's three bits (R122). -/
def PollClass.bits : PollClass → BitVec 3
  | .we => 0
  | .reset => 1
  | .mode4b => 2
  | .program => 3
  | .sector => 4
  | .chip => 5

/-- The budget of a timeout class (R122); no rule of the model reads it (spec/42 R196). -/
def PollClass.budget (p : Params) : PollClass → Nat
  | .we => p.tWe
  | .reset => p.tReset
  | .mode4b => p.t4b
  | .program => p.tProgram
  | .sector => p.tSector
  | .chip => p.tChip

/-- The number of a result code (spec/60 R300). -/
def ResultCode.bits : ResultCode → BitVec 3
  | .ok => 0
  | .transportError => 1
  | .busy => 2
  | .timeoutError => 3
  | .notSupported => 4

/-! ### The words of the opcode table -/

/-- Where a table row leaves INSTR open and its other bits name one kind, that kind; where five kinds share the bits, the one whose code
is INSTR (R127). Log entry 14. -/
def tableFrame (p : Params) (dw0 dw1 dw2 : Word) : Option Instr :=
  if reservedField dw0 ≠ 0 then none
  else
    match layoutFrames p (layoutField dw0) dw1 dw2 with
    | [] => none
    | [c] => some c.2
    | cs => pickFrame (instrField dw0) cs

/-- The instruction of a table word, its bits numbered as spec/opcode_table.json numbers them: bits 31:0 are the REQ word or DW0, bits
63:32 DW1, bits 95:64 DW2. A legal REQ word is a request; any other word is read as a descriptor. Log entry 14. -/
def decodeTableWord (nbits w : Nat) : Option Instr :=
  if nbits < 32 ∨ 96 < nbits then none
  else if w < 2 ^ 32 then
    match decodeRequest (BitVec.ofNat 32 w) with
    | .ok i => some i
    | .error _ => tableFrame Config.params (BitVec.ofNat 32 w) 0 0
  else
    tableFrame Config.params (BitVec.ofNat 32 w) (BitVec.ofNat 32 (w >>> 32)) (BitVec.ofNat 32 (w >>> 64))

end Sys2Proof
end

