-- ==== Sys2Proof/Machine/State.lean ====
section
/-! DEFINITION. The state of THE CORE and of the agents around it, as plain data (spec/10_state.md), the ways a step can stop, and the state
after block reset (R60). -/

namespace Sys2Proof.Machine

/-- The model faults (spec/60_exceptions.md R311): a host access that breaks the host's contract. The access puts SEQ into
Faulted(cause), a next state; every later step of the three agents then answers `fault` with the cause, and only block reset leaves it
(R310). Safe: the spec gives a run no meaning after it. -/
inductive Fault where
  /-- raised by a host register access: unmapped offset, write to a read-only register, or no aligned 32-bit word. Safe. -/
  | registerAccess
  /-- raised by a host access to the memory-mapped window that R95 does not translate. Safe. -/
  | windowAccess
  /-- raised by a write to REQ while STAT.BUSY = 1. Safe. -/
  | reqWhileBusy
  /-- raised by a write to REQ of a legal request other than GET_GEOMETRY while STAT.MMAP = 1. Safe. -/
  | reqInMemoryMapped
  /-- raised by READ, WRITE and ERASE_SECTOR_RANGE when the flash range leaves [0, FLASH_SIZE). Safe. -/
  | outOfRange
  /-- raised by ERASE_SECTOR_RANGE when ARG1 < ARG0. Safe. -/
  | eraseRangeOrder
  /-- raised by READ, WRITE and ERASE_SECTOR_RANGE in 3-byte mode when the range reaches 2^24. Safe. -/
  | addrNotEncodable
  /-- raised by READ and WRITE when the buffer wraps the 32-bit space or leaves HOST_MEM_OK. Safe. -/
  | bufferInvalid
  deriving DecidableEq, Repr

/-- The moves the model does not give an agent. -/
inductive Refusal where
  /-- raised by exec for an instruction without a meaning (none is left). Safe. -/
  | notModelled (mnemonic : String)
  /-- raised by a frame that is not the next statement of the running request: THE CORE issues a frame only there
  (spec/30 R128, spec/40 R160 to R171 "issued by"). Safe. -/
  | frameNotDue
  /-- raised when State.transport offers an answer the spec does not admit for the outstanding call (spec/42 R191, R194). Safe. -/
  | answerNotAdmitted
  /-- raised when the host would touch the buffer of a running READ or WRITE, a move the model does not give it
  (spec/60 R332, spec/93 I14). Safe. -/
  | hostTouchesBuffer
  deriving DecidableEq, Repr

/-- Host memory (spec/20 R82): (address, byte) pairs, addresses strictly rising, no entry 0x00. -/
abbrev Memory := List Host.Cell

/-- The operand registers ARG0 to ARG2 (R33). -/
structure Args where
  arg0 : Word
  arg1 : Word
  arg2 : Word
  deriving DecidableEq, Repr

/-- The fields of STAT (R34); its reserved bits hold nothing. -/
structure Stat where
  busy : Bool
  done : Bool
  result : ResultCode
  addr4 : Bool
  mmap : Bool
  lastSr : Byte
  deriving DecidableEq, Repr

/-- The latched request L_OP, L_A0, L_A1, L_A2 (R45). -/
structure Latch where
  op : BitVec 4
  a0 : Word
  a1 : Word
  a2 : Word
  deriving DecidableEq, Repr

/-- The splitter's cursors (R46). -/
structure Cursor where
  cur : Word
  enda : Word
  chunk : Word
  off : Word
  deriving DecidableEq, Repr

/-- CMD_DESC, three words (R50). -/
structure CmdWords where
  dw0 : Word
  dw1 : Word
  dw2 : Word
  deriving DecidableEq, Repr

/-- POLL_DESC, two words (R51). -/
structure PollWords where
  pw0 : Word
  pw1 : Word
  deriving DecidableEq, Repr

/-- The requests that call the write-enable gate (spec/41 R182). -/
inductive GateUser where
  | init | write | erase | chip
  deriving DecidableEq, Repr

/-- The position of a running request in its program (R47), with the local values of the program there: before the statement named, or, while
State.call holds that statement's call, waiting for its answer. Every statement that acts on a register, host memory or the trace has a position
of its own; tests, returns and assignments to local values belong to the step before them. Log entry 3. -/
inductive Pos where
  /-- WEGate: `r <- call IssueCmd(Desc(WREN, 0, 0))` (spec/41 R180) -/
  | gateWren (u : GateUser)
  /-- WEGate: `p <- call AutoPoll(…, Poll(WEL_MASK, BITS_SET), WE)` -/
  | gateWel (u : GateUser)
  /-- INIT: the RSTEN frame (spec/43 R212) -/
  | initRsten
  /-- INIT: the first `WaitReady(RESET)` -/
  | initRstenReady
  /-- INIT: the RSTMEM frame -/
  | initRstmem
  /-- INIT: the second `WaitReady(RESET)` -/
  | initRstmemReady
  /-- INIT: `STAT.ADDR4 <- 0` -/
  | initClear
  /-- INIT: the EN4B frame -/
  | initEn4b
  /-- INIT: `WaitReady(MODE4B)` -/
  | initEn4bReady
  /-- INIT: `STAT.ADDR4 <- 1` -/
  | initSet
  /-- ENTER_4BYTE: the EN4B frame (spec/43 R220) -/
  | enter4bEn4b
  /-- ENTER_4BYTE: `WaitReady(MODE4B)` -/
  | enter4bReady
  /-- ENTER_4BYTE: `STAT.ADDR4 <- 1` -/
  | enter4bSet
  /-- ENTER_MEMORY_MAPPED: `call MemMapCfg` (spec/43 R226) -/
  | mapCfg
  /-- ENTER_MEMORY_MAPPED: `STAT.MMAP <- 1` -/
  | mapSet
  /-- READ: the QFR frame (spec/44 R241) -/
  | readCmd
  /-- READ: `call RxData(L_A1)` -/
  | readData
  /-- READ, data received: `MemWrite(L_A2 + i, 1, bytes[i])`; `rest` is `bytes` from `i` on -/
  | readStore (i : Nat) (rest : List Byte)
  /-- READ, data failed: `MemWrite(L_A2 + i, 1, any)` -/
  | readAny (i : Nat)
  /-- WRITE: `CUR <- L_A0` (spec/44 R250) -/
  | writeCur
  /-- WRITE: `ENDA <- L_A0 + L_A1` -/
  | writeEnda
  /-- WRITE: `CHUNK <- min(L_A1, P - (L_A0 mod P))` -/
  | writeChunk
  /-- WRITE: `OFF <- 0` -/
  | writeOff
  /-- WRITE: the PP frame -/
  | writeCmd
  /-- WRITE: `buf[i] <- MemRead(L_A2 + OFF + i, 1)`; `got` is the part of `buf` read so far, `i` its length -/
  | writeRead (got : List Byte)
  /-- WRITE: `call TxData(buf[0 .. CHUNK-1])` -/
  | writeData (buf : List Byte)
  /-- WRITE: `WaitReady(PROGRAM)` -/
  | writeReady
  /-- WRITE: `CUR <- CUR + CHUNK` -/
  | writeNextCur
  /-- WRITE: `OFF <- OFF + CHUNK` -/
  | writeNextOff
  /-- WRITE: `CHUNK <- min(P, ENDA - CUR)` -/
  | writeNextChunk
  /-- ERASE_SECTOR_RANGE: `CUR <- L_A0 - (L_A0 mod S)` (spec/45 R272) -/
  | eraseCur
  /-- ERASE_SECTOR_RANGE: `ENDA <- L_A1` -/
  | eraseEnda
  /-- ERASE_SECTOR_RANGE: the SE frame -/
  | eraseCmd
  /-- ERASE_SECTOR_RANGE: `WaitReady(SECTOR)` -/
  | eraseReady
  /-- ERASE_SECTOR_RANGE: `CUR <- CUR + S` -/
  | eraseNext
  /-- ERASE_CHIP: the CE frame (spec/45 R280) -/
  | chipCmd
  /-- ERASE_CHIP: `WaitReady(CHIP)` -/
  | chipReady
  /-- GET_STATUS: the RDSR frame (spec/46 R290) -/
  | statusCmd
  /-- GET_STATUS: `call RxData(STATUS_BYTES)` -/
  | statusData
  /-- GET_STATUS: `STAT.LAST_SR <- b[0]` -/
  | statusSave (b : Byte)
  /-- the program of request `i`: `finish(c)` (spec/60 R303); all of GET_GEOMETRY's program is `finish(OK)` (spec/46 R295) -/
  | finish (i : Instr) (c : ResultCode)
  deriving DecidableEq, Repr

/-- SEQ (R44). -/
inductive Seq where
  | idle
  | running (p : Pos)
  | faulted (r : Fault)
  deriving DecidableEq, Repr

/-- The five transport primitives with their arguments (spec/42 R190). -/
inductive Call where
  | issueCmd (d : CmdDesc)
  | txData (bytes : List Byte)
  | rxData (n : Nat)
  | autoPoll (d : CmdDesc) (p : PollDesc) (c : PollClass)
  | memMapCfg (d : CmdDesc) (t : Word)
  deriving DecidableEq, Repr

/-- The answers of the transport (spec/42 R190, R191, R194). -/
inductive Answer where
  | ok
  | fail
  /-- RxData answers OK with the bytes received -/
  | data (bytes : List Byte)
  /-- AutoPoll answers MATCH with its samples -/
  | matched (samples : List Byte)
  /-- AutoPoll answers NOMATCH with its samples -/
  | noMatch (samples : List Byte)
  deriving DecidableEq, Repr

/-- One event of the output trace (spec/00 R17): calls, answers and host memory accesses of THE CORE; and what the host's own reads got. -/
inductive Event where
  | call (c : Call)
  | answer (a : Answer)
  | memRead (a : Word) (b : Byte)
  | memWrite (a : Word) (b : Byte)
  | regRead (offset : Nat) (v : Word)
  | windowRead (h : Word) (d : CmdDesc) (bytes : List Byte)
  | hostLoad (a : Word) (b : Byte)
  deriving DecidableEq, Repr

/-- One access of the host program (spec/30 R135; spec/60 R322, R332). A register access names its offset from REG_BASE and its width in bytes. -/
inductive HostOp where
  | regWrite (offset : Nat) (width : Nat) (v : Word)
  | regRead (offset : Nat) (width : Nat)
  /-- repeat `rd STAT` until BUSY = 0 (R135, R141) -/
  | wait
  | windowRead (h : Word) (width : Nat)
  | windowWrite (h : Word) (width : Nat)
  /-- the host stores a byte at a host address -/
  | store (a : Word) (b : Byte)
  /-- the host loads a byte from a host address -/
  | load (a : Word)
  deriving DecidableEq, Repr

/-- Which agent takes the next step (spec/60 R322), or the input block reset (spec/70 R340). -/
inductive Turn where
  | host | sequencer | transport | blockReset
  deriving DecidableEq, Repr

/-- The whole state. -/
structure State where
  /-- the platform's parameters, SECTOR_SIZE and PAGE_SIZE among them, constant (spec/00 R6 to R13); the GEO registers are views of it (R36) -/
  cfg : Params
  args : Args
  stat : Stat
  seq : Seq
  /-- the outstanding transport call (R48) -/
  call : Option Call
  latch : Latch
  cursor : Cursor
  cmdDesc : CmdWords
  pollDesc : PollWords
  /-- POLL_CLASS (R51) -/
  pollClass : BitVec 3
  /-- host memory (spec/20 R82) -/
  mem : Memory
  /-- the transport's memory-mapped configuration: the read template (spec/20 R95, spec/70 R340) -/
  window : Option CmdDesc
  /-- the output trace, oldest event first (spec/00 R17) -/
  trace : List Event
  /-- the model's own: the accesses the host has still to make. Log entry 6. -/
  host : List HostOp
  /-- the model's own: the answers the transport will give, in order. Log entry 5. -/
  transport : List Answer
  /-- the model's own: the agents that move next, in order. Log entry 4. -/
  turns : List Turn
  /-- the model's own: how many free bytes were used. Log entry 9. -/
  fresh : Nat
  /-- the model's own: how many memory-mapped periods were entered. Log entry 10. -/
  period : Nat
  deriving DecidableEq, Repr

/-- The state after block reset (R60), with nothing placed by the host: every register 0, SEQ = Idle, ADDR4 = 0, MMAP = 0. The parameters
have SECTOR_SIZE and PAGE_SIZE at the spec's values and are otherwise any legal choice (log entries 1 and 22); the model's own fields are empty (log entry 19). -/
def State.reset : State where
  cfg := Config.params
  args := ⟨0, 0, 0⟩
  stat := ⟨false, false, .ok, false, false, 0⟩
  seq := .idle
  call := none
  latch := ⟨0, 0, 0, 0⟩
  cursor := ⟨0, 0, 0, 0⟩
  cmdDesc := ⟨0, 0, 0⟩
  pollDesc := ⟨0, 0⟩
  pollClass := 0
  mem := []
  window := none
  trace := []
  host := []
  transport := []
  turns := []
  fresh := 0
  period := 0

/-- What a step or a meaning answers. -/
abbrev Result := Host.Outcome State Fault Refusal

end Sys2Proof.Machine
end

