-- ==== Sys2Proof/Machine/Flags.lean ====
section
/-! DEFINITION. Every flag computation of the spec: the STAT word (spec/10_state.md R34), the match of a status sample
(spec/42_completion_poller.md R193), the answers a poll admits (R194), the busy test of GET_STATUS (spec/46 R290), and which
answers count as success. -/

namespace Sys2Proof.Machine

/-- STAT as the host reads it (R34): 0[31:24] LAST_SR[23:16] 0[15:10] MMAP[9] ADDR4[8] 0[7] RESULT[6:4] 0[3:2] DONE[1] BUSY[0]. -/
def Stat.word (t : Stat) : Word :=
  0#8 ++ t.lastSr ++ 0#6 ++ BitVec.ofBool t.mmap ++ BitVec.ofBool t.addr4 ++ 0#1 ++ t.result.bits ++ 0#2
    ++ BitVec.ofBool t.done ++ BitVec.ofBool t.busy

/-- The four STAT writes of `finish(code)` (spec/60 R303), SEQ apart. -/
def Stat.finished (t : Stat) (c : ResultCode) : Stat := { t with result := c, busy := false, done := true }

/-- The STAT writes of an acceptance (R45): DONE <- 0, BUSY <- 1. -/
def Stat.accepted (t : Stat) : Stat := { t with done := false, busy := true }

/-- The STAT writes of an illegal request word (spec/60 R321): RESULT <- NOT_SUPPORTED, DONE <- 1. -/
def Stat.illegal (t : Stat) : Stat := { t with result := .notSupported, done := true }

/-- The match function on a status sample (R193). -/
def sampleMatches (s : Byte) (p : PollDesc) : Bool :=
  let mask : Byte := p.mask.setWidth 8
  match p.mode with
  | .bitsSet => s &&& mask == mask
  | .bitsClear => s &&& mask == 0

/-- A MATCH answer's samples: at least one, the last and only the last matches (R194). -/
def matchedSamples (p : PollDesc) : List Byte → Bool
  | [] => false
  | [s] => sampleMatches s p
  | s :: ss => !sampleMatches s p && matchedSamples p ss

/-- A NOMATCH answer's samples: none matches (R194). -/
def noMatchSamples (p : PollDesc) (ss : List Byte) : Bool := ss.all fun s => !sampleMatches s p

/-- The answers the model admits for a call (R191, R194). -/
def admits : Call → Answer → Bool
  | .issueCmd _, .ok => true
  | .issueCmd _, .fail => true
  | .txData _, .ok => true
  | .txData _, .fail => true
  | .memMapCfg _ _, .ok => true
  | .memMapCfg _ _, .fail => true
  | .rxData n, .data bytes => bytes.length == n
  | .rxData _, .fail => true
  | .autoPoll _ p _, .matched ss => matchedSamples p ss
  | .autoPoll _ p _, .noMatch ss => noMatchSamples p ss
  | _, _ => false

/-- Success of a call: OK or MATCH; failure: FAIL or NOMATCH (spec/60 R302). -/
def Answer.good : Answer → Bool
  | .ok | .data _ | .matched _ => true
  | .fail | .noMatch _ => false

/-- The bytes of an RxData answer. -/
def Answer.bytes : Answer → List Byte
  | .data bs => bs
  | .ok | .fail | .matched _ | .noMatch _ => []

/-- The result of GET_STATUS for a received byte (spec/46 R290): BUSY iff a bit of BUSY_MASK is set. -/
def statusResult (busyMask b : Byte) : ResultCode := if b &&& busyMask ≠ 0 then .busy else .ok

end Sys2Proof.Machine
end

