-- ==== Sys2Proof/Machine/Operands.lean ====
section
/-! DEFINITION. Every operand form: the acceptance checks on ARG0 to ARG2 (spec/60_exceptions.md R320 step 4), the splitter's
arithmetic (spec/44 R250, spec/45 R272), the addressing-mode multiplexer and the encoder function Desc (spec/40 R150 to R154), the poll
descriptors (spec/42 R192), and the frame that is next in the running request. -/

namespace Sys2Proof.Machine

/-- R320 step 4 for READ and WRITE: the first check that fails. Sums are on naturals (R15). -/
def State.transferFault (s : State) : Option Fault :=
  let a0 := s.args.arg0.toNat
  let a1 := s.args.arg1.toNat
  let a2 := s.args.arg2.toNat
  if ¬ (a0 < s.cfg.flashSize ∧ a0 + a1 ≤ s.cfg.flashSize) then some .outOfRange
  else if s.stat.addr4 = false ∧ ¬ (a0 < 2 ^ 24 ∧ a0 + a1 ≤ 2 ^ 24) then some .addrNotEncodable
  else if ¬ (a2 + a1 ≤ 2 ^ 32 ∧ s.cfg.bufferOk a2 a1 = true) then some .bufferInvalid
  else none

/-- R320 step 4 for ERASE_SECTOR_RANGE: the first check that fails. -/
def State.eraseFault (s : State) : Option Fault :=
  let a0 := s.args.arg0.toNat
  let a1 := s.args.arg1.toNat
  if a1 < a0 then some .eraseRangeOrder
  else if s.cfg.flashSize ≤ a1 then some .outOfRange
  else if s.stat.addr4 = false ∧ 2 ^ 24 ≤ a1 then some .addrNotEncodable
  else none

/-- min(n, P - (a mod P)), the first chunk of a WRITE (spec/44 R250). -/
def firstChunk (P : Nat) (a n : Word) : Word := BitVec.ofNat 32 (min n.toNat (P - a.toNat % P))

/-- min(P, ENDA - CUR), a later chunk (spec/44 R250). -/
def nextChunk (P : Nat) (cur enda : Word) : Word := BitVec.ofNat 32 (min P (enda.toNat - cur.toNat))

/-- CUR <- v (R46). -/
def State.setCur (v : Word) (s : State) : State := { s with cursor := { s.cursor with cur := v } }

/-- ENDA <- v (R46). -/
def State.setEnda (v : Word) (s : State) : State := { s with cursor := { s.cursor with enda := v } }

/-- CHUNK <- v (R46). -/
def State.setChunk (v : Word) (s : State) : State := { s with cursor := { s.cursor with chunk := v } }

/-- OFF <- v (R46). -/
def State.setOff (v : Word) (s : State) : State := { s with cursor := { s.cursor with off := v } }

/-- The encoder function Desc(kind, a, n) (R151): pure, it reads ADDR4 and the parameters. -/
def State.desc (s : State) (k : Kind) (a n : Word) : CmdDesc :=
  match k with
  | .wren => plainDesc s.cfg.cmdWren
  | .rsten => plainDesc s.cfg.cmdRsten
  | .rstmem => plainDesc s.cfg.cmdRstmem
  | .en4b => plainDesc s.cfg.cmdEn4b
  | .rdsr => statusDesc s.cfg.cmdRdsr
  | .pp =>
    if s.stat.addr4 then programDesc s.cfg.cmdPp4 .a32 a n else programDesc s.cfg.cmdPp3 .a24 (zext24 (low24 a)) n
  | .qfr =>
    if s.stat.addr4 then quadReadDesc s.cfg.cmdQfr4 .a32 s.cfg.dummyQfr a n
    else quadReadDesc s.cfg.cmdQfr3 .a24 s.cfg.dummyQfr (zext24 (low24 a)) n
  | .se => if s.stat.addr4 then sectorDesc s.cfg.cmdSe4 .a32 a else sectorDesc s.cfg.cmdSe3 .a24 (zext24 (low24 a))
  | .ce => plainDesc s.cfg.cmdCe

/-- The addressing-mode multiplexer: the frame kind of a page program in the current mode (R152). -/
def State.programFrame (s : State) (a n : Word) : Instr := if s.stat.addr4 then .pp4 a n else .pp3 (low24 a) n

/-- The frame kind of a quad fast read in the current mode (R152). -/
def State.quadReadFrame (s : State) (a n : Word) : Instr := if s.stat.addr4 then .qfr4 a n else .qfr3 (low24 a) n

/-- The frame kind of a sector erase in the current mode (R152). -/
def State.sectorFrame (s : State) (a : Word) : Instr := if s.stat.addr4 then .se4 a else .se3 (low24 a)

/-- Poll(mask, mode) (spec/42 R192). -/
def pollOf (p : Params) (mask : Byte) (mode : PollMode) : PollDesc where
  srInstr := p.cmdRdsr
  mode := mode
  autoStop := true
  srBytesM1 := 0
  interval := p.pollInterval
  mask := mask.setWidth 32

/-- Poll(WEL_MASK, BITS_SET), the poll of the write-enable gate (spec/41 R180). -/
def welPoll (p : Params) : PollDesc := pollOf p p.welMask .bitsSet

/-- Poll(BUSY_MASK, BITS_CLEAR), the poll of every ready wait (spec/42 R195). -/
def readyPoll (p : Params) : PollDesc := pollOf p p.busyMask .bitsClear

/-- The frame whose IssueCmd is the statement at a position, its operands taken from the latched request and the cursors
(R45, R46, R126). -/
def State.frameAt (s : State) : Pos → Option Instr
  | .gateWren _ => some .wren
  | .initRsten => some .rsten
  | .initRstmem => some .rstmem
  | .initEn4b => some .en4b
  | .enter4bEn4b => some .en4b
  | .readCmd => some (s.quadReadFrame s.latch.a0 s.latch.a1)
  | .writeCmd => some (s.programFrame s.cursor.cur s.cursor.chunk)
  | .eraseCmd => some (s.sectorFrame s.cursor.cur)
  | .chipCmd => some .ce
  | .statusCmd => some .rdsr
  | .gateWel _ | .initRstenReady | .initRstmemReady | .initClear | .initEn4bReady | .initSet | .enter4bReady | .enter4bSet => none
  | .mapCfg | .mapSet | .readData | .readStore _ _ | .readAny _ => none
  | .writeCur | .writeEnda | .writeChunk | .writeOff | .writeRead _ | .writeData _ | .writeReady => none
  | .writeNextCur | .writeNextOff | .writeNextChunk | .eraseCur | .eraseEnda | .eraseReady | .eraseNext => none
  | .chipReady | .statusData | .statusSave _ | .finish _ _ => none

/-- The frame the sequencer issues next: a request runs, no call is outstanding (R48), and the next statement is an IssueCmd. -/
def State.frameDue (s : State) : Option Instr :=
  match s.seq, s.call with
  | .running p, none => s.frameAt p
  | .running _, some _ => none
  | .idle, _ => none
  | .faulted _, _ => none

end Sys2Proof.Machine
end

