-- ==== Sys2Proof/Machine/Ops.lean ====
section
/-! DEFINITION. The named operations over host memory and the registers: reading and writing bytes (spec/20 R82, R85), placing a
transport call (spec/42 R190), `finish` (spec/60 R303), entering a model fault (R310) and leaving it by block reset (spec/70 R340), and
the acceptance of a request (spec/60 R320). -/

namespace Sys2Proof.Machine

/-! ### Host memory -/

/-- What a byte of host memory reads as when nothing is listed for it. DESIGN CHOICE 0x00: the spec gives host memory no contents.
Unsafe. Log entry 8. -/
def Memory.unlisted : Byte := 0

/-- One byte of host memory. -/
def Memory.read : Memory → Nat → Byte
  | [], _ => Memory.unlisted
  | c :: cs, a => if c.1 = a then c.2 else Memory.read cs a

/-- Store one byte, keeping the canonical form. -/
def Memory.write : Memory → Nat → Byte → Memory
  | [], a, b => if b = Memory.unlisted then [] else [(a, b)]
  | c :: cs, a, b =>
    if a < c.1 then (if b = Memory.unlisted then c :: cs else (a, b) :: c :: cs)
    else if a = c.1 then (if b = Memory.unlisted then cs else (a, b) :: cs)
    else c :: Memory.write cs a b

/-- The canonical form: addresses below 2^32 and strictly rising, no entry equal to what an unlisted address reads as. -/
def Memory.wf : Memory → Bool
  | [] => true
  | c :: cs => decide (c.1 < 2 ^ 32) && c.2 != Memory.unlisted && cs.all (fun d => decide (c.1 < d.1)) && Memory.wf cs

/-- Add an event to the trace. -/
def State.log (e : Event) (s : State) : State := { s with trace := s.trace ++ [e] }

/-- MemRead(a, 1) (R16): the value. -/
def State.memRead (s : State) (a : Word) : Byte := s.mem.read a.toNat

/-- MemRead(a, 1) (R16) as an event of the trace (R17). -/
def State.logRead (a : Word) (s : State) : State := s.log (.memRead a (s.memRead a))

/-- MemWrite(a, 1, b) (R16), recorded in the trace. -/
def State.memWrite (a : Word) (b : Byte) (s : State) : State :=
  { s with mem := s.mem.write a.toNat b, trace := s.trace ++ [.memWrite a b] }

/-- MemWrite(a, 1, any) (spec/44 R241): a free byte, and the count of them advances. Log entry 9. -/
def State.memWriteAny (a : Word) (s : State) : State :=
  { s with fresh := s.fresh + 1 }.memWrite a (Config.freeByte s.fresh)

/-- The bytes [a, a + n) of host memory, in increasing order. -/
def State.bytesAt (s : State) (a : Word) : Nat → List Byte
  | 0 => []
  | n + 1 => s.memRead a :: s.bytesAt (a + 1) n

/-! ### The sequencer's control state -/

/-- Move to a position of the running program. -/
def State.goto (p : Pos) (s : State) : State := { s with seq := .running p }

/-- finish(code) (spec/60 R303): RESULT, BUSY, DONE and SEQ together. -/
def State.finish (c : ResultCode) (s : State) : State := { s with stat := s.stat.finished c, seq := .idle }

/-- Enter the model fault state (spec/60 R310): SEQ <- Faulted(reason), and nothing else. -/
def State.raise (r : Fault) (s : State) : Result := .next { s with seq := .faulted r }

/-- Block reset (spec/70 R340, spec/10 R60), the only way out of a model fault: every register of THE CORE takes its reset value, an
outstanding call is forgotten, the transport leaves its memory-mapped configuration and a new run starts. The platform's parameters, host
memory and what the agents have still to do are not THE CORE's and stay. Log entry 11. -/
def State.blockReset (s : State) : State :=
  { State.reset with
    cfg := s.cfg, mem := s.mem, host := s.host, transport := s.transport, turns := s.turns, fresh := s.fresh, period := s.period }

/-! ### Transport calls (spec/42 R190) -/

/-- The three words of a descriptor as CMD_DESC holds them (R50). -/
def cmdRegs (d : CmdDesc) : CmdWords := ⟨d.dw0, d.addr, d.dlen⟩

/-- The two words of a poll descriptor as POLL_DESC holds them (R51). -/
def pollRegs (p : PollDesc) : PollWords := ⟨p.pw0, p.mask⟩

/-- `call P(args)`: the call is outstanding from now on, and an event of the trace (R17, R48). -/
def State.placeCall (c : Call) (s : State) : State := { s with call := some c, trace := s.trace ++ [.call c] }

/-- `call IssueCmd(d)`: CMD_DESC takes the descriptor (R50). -/
def State.callIssueCmd (d : CmdDesc) (s : State) : State := { s with cmdDesc := cmdRegs d }.placeCall (.issueCmd d)

/-- `call AutoPoll(Desc(RDSR, 0, 0), p, c)`: CMD_DESC, POLL_DESC and POLL_CLASS take the call's values (R50, R51, spec/42 R194). -/
def State.callAutoPoll (p : PollDesc) (c : PollClass) (s : State) : State :=
  { s with cmdDesc := cmdRegs (s.desc .rdsr 0 0), pollDesc := pollRegs p, pollClass := c.bits }.placeCall
    (.autoPoll (s.desc .rdsr 0 0) p c)

/-- `call TxData(buf)` (spec/44 R250, R252). -/
def State.callTxData (buf : List Byte) (s : State) : State := s.placeCall (.txData buf)

/-- `call RxData(n)`. -/
def State.callRxData (n : Nat) (s : State) : State := s.placeCall (.rxData n)

/-- `call MemMapCfg(d, MM_TIMEOUT_CFG)`: CMD_DESC takes the template (R50, spec/43 R226). -/
def State.callMemMapCfg (d : CmdDesc) (s : State) : State :=
  { s with cmdDesc := cmdRegs d }.placeCall (.memMapCfg d s.cfg.mmTimeoutCfg)

/-- A frame `i` with descriptor `d`: the IssueCmd of the running request's next statement. THE CORE issues a frame nowhere else. -/
def State.issueFrame (i : Instr) (d : CmdDesc) (s : State) : Result :=
  match s.seq with
  | .faulted r => .fault r
  | .idle => .refused .frameNotDue
  | .running _ => if s.frameDue = some i then .next (s.callIssueCmd d) else .refused .frameNotDue

/-! ### Acceptance of a request (spec/60 R320) -/

/-- Step 5 of R320, which is R45: latch the request and start its program at `start`. -/
def State.accept (i : Instr) (start : Pos) (s : State) : State :=
  { s with
    latch := ⟨requestOp i, s.args.arg0, s.args.arg1, s.args.arg2⟩
    stat := s.stat.accepted
    seq := .running start }

/-- A host write to REQ of the word of request `i`, step 2 passed: steps 1, 3, 4 and 5 of R320 in order; `inMm` says that the request is
accepted while MMAP = 1, `check` is step 4. -/
def State.present (i : Instr) (start : Pos) (inMm : Bool) (check : Option Fault) (s : State) : Result :=
  match s.seq with
  | .faulted r => .fault r
  | .idle | .running _ =>
    if s.stat.busy then s.raise .reqWhileBusy
    else if s.stat.mmap && !inMm then s.raise .reqInMemoryMapped
    else
      match check with
      | some r => s.raise r
      | none => .next (s.accept i start)

/-- An illegal request word while BUSY = 0 (spec/60 R321): it completes at once with NOT_SUPPORTED. -/
def State.illegalWord (s : State) : State := { s with stat := s.stat.illegal }

end Sys2Proof.Machine
end

