-- ==== Sys2Proof/Machine/Gate.lean ====
section
/-! DEFINITION. The write-enable gate (spec/41_write_enable_gate.md R180 to R184), the ready wait of the completion poller
(spec/42_completion_poller.md R195), and their frames WREN and RDSR (spec/40 R160, R164). -/

namespace Sys2Proof.Machine

/-- WREN (R160): issued by the write-enable gate. -/
def execWren (s : State) : Result := s.issueFrame .wren (plainDesc s.cfg.cmdWren)

/-- RDSR (R164): issued as a frame by GET_STATUS; as the status command of an auto-poll it is part of that call. -/
def execRdsr (s : State) : Result := s.issueFrame .rdsr (statusDesc s.cfg.cmdRdsr)

/-- The gate's poll: `call AutoPoll(Desc(RDSR, 0, 0), Poll(WEL_MASK, BITS_SET), WE)` (R180). -/
def State.callWelPoll (s : State) : State := s.callAutoPoll (welPoll s.cfg) .we

/-- The ready wait's poll: `call AutoPoll(Desc(RDSR, 0, 0), Poll(BUSY_MASK, BITS_CLEAR), c)` (spec/42 R195). -/
def State.callReadyPoll (c : PollClass) (s : State) : State := s.callAutoPoll (readyPoll s.cfg) c

/-- The request a gate user is (R182). -/
def GateUser.request : GateUser → Instr
  | .init => .init
  | .write => .write
  | .erase => .erase
  | .chip => .eraseChip

/-- The gate returns OK: the mutating frame, or INIT's RSTEN, is the next statement (R182). -/
def gateReturn : GateUser → Pos
  | .init => .initRsten
  | .write => .writeCmd
  | .erase => .eraseCmd
  | .chip => .chipCmd

/-- The gate returns another outcome: every user finishes with it, INIT with NOT_SUPPORTED (R181, spec/43 R213). -/
def gateFailure (c : ResultCode) : GateUser → ResultCode
  | .init => .notSupported
  | .write | .erase | .chip => c

/-- After the answer to WREN: the poll, or TRANSPORT_ERROR without a poll (R181). -/
def afterGateWren (u : GateUser) (good : Bool) : Pos :=
  if good then .gateWel u else .finish u.request (gateFailure .transportError u)

/-- After the answer to the gate's poll: MATCH is OK, NOMATCH is TIMEOUT_ERROR (R181). -/
def afterGateWel (u : GateUser) (good : Bool) : Pos :=
  if good then gateReturn u else .finish u.request (gateFailure .timeoutError u)

/-- After the answer of a call of request `i` whose failure ends it with `c`: `next`, or `finish(c)` (spec/60 R302, R304). -/
def orFinish (good : Bool) (next : Pos) (i : Instr) (c : ResultCode) : Pos := if good then next else .finish i c

end Sys2Proof.Machine
end

