-- ==== Sys2Proof/Machine/Erase.lean ====
section
/-! DEFINITION. ERASE_SECTOR_RANGE and ERASE_CHIP (spec/45_erase.md) and their frames SE3, SE4 and CE (spec/40 R169 to R171). -/

namespace Sys2Proof.Machine

/-- ERASE_SECTOR_RANGE (R270, R271): the write of REQ word 0x4, with the order, range and encodability checks. -/
def execErase (s : State) : Result := s.present .erase .eraseCur false s.eraseFault

/-- ERASE_CHIP (R280): the write of REQ word 0x5. Its program starts with the write-enable gate. -/
def execEraseChip (s : State) : Result := s.present .eraseChip (.gateWren .chip) false none

/-- SE3 (spec/40 R169): issued by ERASE_SECTOR_RANGE in 3-byte mode. -/
def execSe3 (a : Addr24) (s : State) : Result := s.issueFrame (.se3 a) (sectorDesc s.cfg.cmdSe3 .a24 (zext24 a))

/-- SE4 (spec/40 R170): issued by ERASE_SECTOR_RANGE in 4-byte mode. -/
def execSe4 (a : Word) (s : State) : Result := s.issueFrame (.se4 a) (sectorDesc s.cfg.cmdSe4 .a32 a)

/-- CE (spec/40 R171): issued by ERASE_CHIP. -/
def execCe (s : State) : Result := s.issueFrame .ce (plainDesc s.cfg.cmdCe)

/-- The loop test of ERASE_SECTOR_RANGE: another sector while CUR <= ENDA, else finish(OK) (R272, spec/90 C3). -/
def State.eraseLoop (s : State) : Pos := if s.cursor.cur.toNat ≤ s.cursor.enda.toNat then .gateWren .erase else .finish .erase .ok

/-- `CUR <- L_A0 - (L_A0 mod S)` (R272). -/
def State.eraseStart (s : State) : State := s.setCur (BitVec.ofNat 32 (sectorBase s.cfg.sectorSize s.latch.a0.toNat))

/-- `ENDA <- L_A1`, then the first loop test (R272). -/
def State.eraseEnter (s : State) : State :=
  let t := s.setEnda s.latch.a1
  t.goto t.eraseLoop

/-- `CUR <- CUR + S`, then the loop test (R272). -/
def State.eraseAdvance (s : State) : State :=
  let t := s.setCur (s.cursor.cur + BitVec.ofNat 32 s.cfg.sectorSize)
  t.goto t.eraseLoop

end Sys2Proof.Machine
end

