-- ==== Sys2Proof/Machine/ModeOps.lean ====
section
/-! DEFINITION. The mode controller's requests INIT, ENTER_4BYTE and ENTER_MEMORY_MAPPED (spec/43_mode_operations.md) and their
frames RSTEN, RSTMEM and EN4B (spec/40 R161 to R163). -/

namespace Sys2Proof.Machine

/-- INIT (R211): the write of REQ word 0x1. Its program starts with the write-enable gate (R212). -/
def execInit (s : State) : Result := s.present .init (.gateWren .init) false none

/-- ENTER_4BYTE (R220): the write of REQ word 0x9. Its program starts with the EN4B frame. -/
def execEnter4b (s : State) : Result := s.present .enter4b .enter4bEn4b false none

/-- ENTER_MEMORY_MAPPED (R225): the write of REQ word 0x8. Its program is one MemMapCfg call (R226). -/
def execEnterMm (s : State) : Result := s.present .enterMm .mapCfg false none

/-- RSTEN (spec/40 R161): issued by INIT. -/
def execRsten (s : State) : Result := s.issueFrame .rsten (plainDesc s.cfg.cmdRsten)

/-- RSTMEM (spec/40 R162): issued by INIT. -/
def execRstmem (s : State) : Result := s.issueFrame .rstmem (plainDesc s.cfg.cmdRstmem)

/-- EN4B (spec/40 R163): issued by INIT and ENTER_4BYTE. -/
def execEn4b (s : State) : Result := s.issueFrame .en4b (plainDesc s.cfg.cmdEn4b)

/-- STAT.ADDR4 <- v (spec/10 R37). -/
def State.setAddr4 (v : Bool) (s : State) : State := { s with stat := { s.stat with addr4 := v } }

/-- STAT.MMAP <- 1 after MemMapCfg answered OK (R226): the transport's template is Desc(QFR, 0, 0) from here on and a new memory-mapped period
begins (R227, spec/20 R95, R97). -/
def State.setMapped (s : State) : State :=
  { s with
    stat := { s.stat with mmap := true }
    window := some (s.desc .qfr 0 0)
    period := s.period + 1 }

end Sys2Proof.Machine
end

