-- ==== Sys2Proof/Machine/ReadWrite.lean ====
section
/-! DEFINITION. READ and WRITE (spec/44_read_write.md) and their frames QFR3, QFR4, PP3 and PP4 (spec/40 R165 to R168). -/

namespace Sys2Proof.Machine

/-- READ (R240): the write of REQ word 0x2, with the range, encodability and buffer checks. -/
def execRead (s : State) : Result := s.present .read .readCmd false s.transferFault

/-- WRITE (R250): the write of REQ word 0x3, with the same checks as READ. -/
def execWrite (s : State) : Result := s.present .write .writeCur false s.transferFault

/-- PP3 (spec/40 R165): issued by WRITE in 3-byte mode. -/
def execPp3 (a : Addr24) (n : Word) (s : State) : Result :=
  s.issueFrame (.pp3 a n) (programDesc s.cfg.cmdPp3 .a24 (zext24 a) n)

/-- PP4 (spec/40 R166): issued by WRITE in 4-byte mode. -/
def execPp4 (a n : Word) (s : State) : Result := s.issueFrame (.pp4 a n) (programDesc s.cfg.cmdPp4 .a32 a n)

/-- QFR3 (spec/40 R167): issued by READ in 3-byte mode. -/
def execQfr3 (a : Addr24) (n : Word) (s : State) : Result :=
  s.issueFrame (.qfr3 a n) (quadReadDesc s.cfg.cmdQfr3 .a24 s.cfg.dummyQfr (zext24 a) n)

/-- QFR4 (spec/40 R168): issued by READ in 4-byte mode. -/
def execQfr4 (a n : Word) (s : State) : Result :=
  s.issueFrame (.qfr4 a n) (quadReadDesc s.cfg.cmdQfr4 .a32 s.cfg.dummyQfr a n)

/-- READ's loop test with `bytes` from `i` on still to store: the next MemWrite, or finish(OK) (R241). -/
def readStoreFrom (i : Nat) : List Byte → Pos
  | [] => .finish .read .ok
  | b :: bs => .readStore i (b :: bs)

/-- `MemWrite(L_A2 + i, 1, bytes[i])`, then the loop test; `rest` is `bytes` from `i` on (R241). -/
def State.storeByte (i : Nat) (rest : List Byte) (s : State) : State :=
  match rest with
  | [] => s.goto (readStoreFrom i [])
  | b :: bs => (s.memWrite (s.latch.a2 + BitVec.ofNat 32 i) b).goto (readStoreFrom (i + 1) bs)

/-- The loop test of READ after RxData answered FAIL: the next MemWrite of a free byte, or finish(TRANSPORT_ERROR) (R241). -/
def State.readAnyFrom (s : State) (i : Nat) : Pos := if i < s.latch.a1.toNat then .readAny i else .finish .read .transportError

/-- `MemWrite(L_A2 + i, 1, any)`, then the loop test (R241). -/
def State.storeAny (i : Nat) (s : State) : State :=
  (s.memWriteAny (s.latch.a2 + BitVec.ofNat 32 i)).goto (s.readAnyFrom (i + 1))

/-- WRITE's inner loop test with `got` read so far: the next MemRead, or TxData (R250). -/
def State.writeReadFrom (s : State) (got : List Byte) : Pos :=
  if got.length < s.cursor.chunk.toNat then .writeRead got else .writeData got

/-- The host address L_A2 + OFF + i of WRITE's source byte `i` of the chunk (R250, R252). -/
def State.sourceAddr (s : State) (i : Nat) : Word := s.latch.a2 + s.cursor.off + BitVec.ofNat 32 i

/-- `buf[i] <- MemRead(L_A2 + OFF + i, 1)`, then the inner loop test (R250). -/
def State.fetchByte (got : List Byte) (s : State) : State :=
  (s.logRead (s.sourceAddr got.length)).goto (s.writeReadFrom (got ++ [s.memRead (s.sourceAddr got.length)]))

/-- WRITE's loop test: the next chunk while CUR < ENDA, else finish(OK) (R250). -/
def State.writeLoop (s : State) : Pos := if s.cursor.cur.toNat < s.cursor.enda.toNat then .gateWren .write else .finish .write .ok

/-- `CHUNK <- min(P, ENDA - CUR)`, then WRITE's loop test (R250). -/
def State.writeNext (s : State) : State :=
  let t := s.setChunk (nextChunk s.cfg.pageSize s.cursor.cur s.cursor.enda)
  t.goto t.writeLoop

end Sys2Proof.Machine
end

