-- ==== Sys2Proof/Machine/StatusGeometry.lean ====
section
/-! DEFINITION. GET_STATUS and GET_GEOMETRY (spec/46_status_geometry.md). -/

namespace Sys2Proof.Machine

/-- GET_STATUS (R290): the write of REQ word 0x6. Its program starts with the RDSR frame. -/
def execGetStatus (s : State) : Result := s.present .getStatus .statusCmd false none

/-- GET_GEOMETRY (R295): the write of REQ word 0x7, accepted while MMAP = 1 too. Its program is finish(OK). -/
def execGetGeometry (s : State) : Result := s.present .getGeometry (.finish .getGeometry .ok) true none

/-- STAT.LAST_SR <- b (R290, R291). -/
def State.setLastSr (b : Byte) (s : State) : State := { s with stat := { s.stat with lastSr := b } }

end Sys2Proof.Machine
end

