-- ==== Sys2Proof/Machine/Programs.lean ====
section
/-! DEFINITION. The programs of the nine requests, by position (spec/10_state.md R47): what the sequencer does at a position that is no
IssueCmd, and the position a program goes to when the call of a position is answered. The IssueCmd positions run a frame instruction. -/

namespace Sys2Proof.Machine

/-- The statement at a position that is no IssueCmd: another transport call, one assignment to a register, one byte of host memory, or
`finish`. At an IssueCmd position the frame instruction acts instead. -/
def State.perform (s : State) : Pos → State
  | .gateWel _ => s.callWelPoll
  | .initRstenReady => s.callReadyPoll .reset
  | .initRstmemReady => s.callReadyPoll .reset
  | .initClear => (s.setAddr4 false).goto .initEn4b
  | .initEn4bReady => s.callReadyPoll .mode4b
  | .initSet => (s.setAddr4 true).goto (.finish .init .ok)
  | .enter4bReady => s.callReadyPoll .mode4b
  | .enter4bSet => (s.setAddr4 true).goto (.finish .enter4b .ok)
  | .mapCfg => s.callMemMapCfg (s.desc .qfr 0 0)
  | .mapSet => s.setMapped.goto (.finish .enterMm .ok)
  | .readData => s.callRxData s.latch.a1.toNat
  | .readStore i rest => s.storeByte i rest
  | .readAny i => s.storeAny i
  | .writeCur => (s.setCur s.latch.a0).goto .writeEnda
  | .writeEnda => (s.setEnda (s.latch.a0 + s.latch.a1)).goto .writeChunk
  | .writeChunk => (s.setChunk (firstChunk s.cfg.pageSize s.latch.a0 s.latch.a1)).goto .writeOff
  | .writeOff => (s.setOff 0).goto (.gateWren .write)
  | .writeRead got => s.fetchByte got
  | .writeData buf => s.callTxData buf
  | .writeReady => s.callReadyPoll .program
  | .writeNextCur => (s.setCur (s.cursor.cur + s.cursor.chunk)).goto .writeNextOff
  | .writeNextOff => (s.setOff (s.cursor.off + s.cursor.chunk)).goto .writeNextChunk
  | .writeNextChunk => s.writeNext
  | .eraseCur => s.eraseStart.goto .eraseEnda
  | .eraseEnda => s.eraseEnter
  | .eraseReady => s.callReadyPoll .sector
  | .eraseNext => s.eraseAdvance
  | .chipReady => s.callReadyPoll .chip
  | .statusData => s.callRxData statusBytes
  | .statusSave b => (s.setLastSr b).goto (.finish .getStatus (statusResult s.cfg.busyMask b))
  | .finish _ c => s.finish c
  | .gateWren _ | .initRsten | .initRstmem | .initEn4b | .enter4bEn4b | .readCmd | .writeCmd | .eraseCmd | .chipCmd
  | .statusCmd => s

/-- The position after the answer to the call at a position: the first failing call ends the request (spec/60 R302, R304). A position without a
call keeps its place. -/
def State.after (s : State) (a : Answer) : Pos → Pos
  | .gateWren u => afterGateWren u a.good
  | .gateWel u => afterGateWel u a.good
  | .initRsten => orFinish a.good .initRstenReady .init .notSupported
  | .initRstenReady => orFinish a.good .initRstmem .init .notSupported
  | .initRstmem => orFinish a.good .initRstmemReady .init .notSupported
  | .initRstmemReady => orFinish a.good .initClear .init .notSupported
  | .initEn4b => orFinish a.good .initEn4bReady .init .notSupported
  | .initEn4bReady => orFinish a.good .initSet .init .notSupported
  | .enter4bEn4b => orFinish a.good .enter4bReady .enter4b .transportError
  | .enter4bReady => orFinish a.good .enter4bSet .enter4b .timeoutError
  | .mapCfg => orFinish a.good .mapSet .enterMm .transportError
  | .readCmd => orFinish a.good .readData .read .transportError
  | .readData => if a.good then readStoreFrom 0 a.bytes else s.readAnyFrom 0
  | .writeCmd => orFinish a.good (s.writeReadFrom []) .write .transportError
  | .writeData _ => orFinish a.good .writeReady .write .transportError
  | .writeReady => orFinish a.good .writeNextCur .write .timeoutError
  | .eraseCmd => orFinish a.good .eraseReady .erase .transportError
  | .eraseReady => orFinish a.good .eraseNext .erase .timeoutError
  | .chipCmd => orFinish a.good .chipReady .eraseChip .transportError
  | .chipReady => orFinish a.good (.finish .eraseChip .ok) .eraseChip .timeoutError
  | .statusCmd => orFinish a.good .statusData .getStatus .transportError
  | .statusData => orFinish a.good (.statusSave (a.bytes.headD 0)) .getStatus .transportError
  | .initClear => .initClear
  | .initSet => .initSet
  | .enter4bSet => .enter4bSet
  | .mapSet => .mapSet
  | .readStore i rest => .readStore i rest
  | .readAny i => .readAny i
  | .writeCur => .writeCur
  | .writeEnda => .writeEnda
  | .writeChunk => .writeChunk
  | .writeOff => .writeOff
  | .writeRead got => .writeRead got
  | .writeNextCur => .writeNextCur
  | .writeNextOff => .writeNextOff
  | .writeNextChunk => .writeNextChunk
  | .eraseCur => .eraseCur
  | .eraseEnda => .eraseEnda
  | .eraseNext => .eraseNext
  | .statusSave b => .statusSave b
  | .finish i c => .finish i c

/-- The transport's answer `a` to the call at position `p`: the call ends, the answer is an event of the trace (R17), and the program goes on. -/
def State.answered (p : Pos) (a : Answer) (s : State) : State :=
  { s with call := none, trace := s.trace ++ [.answer a], seq := .running (s.after a p) }

end Sys2Proof.Machine
end

