-- ==== Sys2Proof/Machine/Dispatch.lean ====
section
/-! DEFINITION. The meaning of each instruction, one arm for each constructor of Instr. A request's meaning is the write of its word to REQ
(spec/60_exceptions.md R320), which starts its program; a frame's meaning is the IssueCmd of its descriptor (spec/40). -/

namespace Sys2Proof.Machine

def exec (i : Instr) (s : State) : Host.Outcome State Fault Refusal :=
  match i with
  | .init => Sys2Proof.Machine.execInit s
  | .read => Sys2Proof.Machine.execRead s
  | .write => Sys2Proof.Machine.execWrite s
  | .erase => Sys2Proof.Machine.execErase s
  | .eraseChip => Sys2Proof.Machine.execEraseChip s
  | .getStatus => Sys2Proof.Machine.execGetStatus s
  | .getGeometry => Sys2Proof.Machine.execGetGeometry s
  | .enterMm => Sys2Proof.Machine.execEnterMm s
  | .enter4b => Sys2Proof.Machine.execEnter4b s
  | .wren => Sys2Proof.Machine.execWren s
  | .rsten => Sys2Proof.Machine.execRsten s
  | .rstmem => Sys2Proof.Machine.execRstmem s
  | .en4b => Sys2Proof.Machine.execEn4b s
  | .rdsr => Sys2Proof.Machine.execRdsr s
  | .pp3 a n => Sys2Proof.Machine.execPp3 a n s
  | .pp4 a n => Sys2Proof.Machine.execPp4 a n s
  | .qfr3 a n => Sys2Proof.Machine.execQfr3 a n s
  | .qfr4 a n => Sys2Proof.Machine.execQfr4 a n s
  | .se3 a => Sys2Proof.Machine.execSe3 a s
  | .se4 a => Sys2Proof.Machine.execSe4 a s
  | .ce => Sys2Proof.Machine.execCe s

end Sys2Proof.Machine
end

