-- ==== Sys2Proof/Machine/HostBus.lean ====
section
/-! DEFINITION. The host's accesses other than a REQ write: the register map (spec/10_state.md R31 to R36, spec/20_memory.md R86, R93), the
memory-mapped window (spec/20 R90, R95, R96), the bytes at any host address (spec/60 R332), and the host assembly (spec/30 R135, R140). -/

namespace Sys2Proof.Machine

/-- The ten registers (R31). -/
inductive Reg where
  | req | arg0 | arg1 | arg2 | stat | geoFlashSize | geoSectorSize | geoSectorCount | geoPageSize | geoPageCount
  deriving DecidableEq, Repr

/-- The offset of a register (R31). -/
def Reg.offset : Reg → Nat
  | .req => 0x00
  | .arg0 => 0x04
  | .arg1 => 0x08
  | .arg2 => 0x0C
  | .stat => 0x10
  | .geoFlashSize => 0x14
  | .geoSectorSize => 0x18
  | .geoSectorCount => 0x1C
  | .geoPageSize => 0x20
  | .geoPageCount => 0x24

/-- The register at an offset; every other offset is unmapped (R31). -/
def regAt : Nat → Option Reg
  | 0x00 => some .req
  | 0x04 => some .arg0
  | 0x08 => some .arg1
  | 0x0C => some .arg2
  | 0x10 => some .stat
  | 0x14 => some .geoFlashSize
  | 0x18 => some .geoSectorSize
  | 0x1C => some .geoSectorCount
  | 0x20 => some .geoPageSize
  | 0x24 => some .geoPageCount
  | _ => none

/-- The value of a register read; a read has no side effect, REQ reads 0 (R31 to R36, spec/20 R93). -/
def State.regValue (s : State) : Reg → Word
  | .req => 0
  | .arg0 => s.args.arg0
  | .arg1 => s.args.arg1
  | .arg2 => s.args.arg2
  | .stat => s.stat.word
  | .geoFlashSize => BitVec.ofNat 32 s.cfg.flashSize
  | .geoSectorSize => BitVec.ofNat 32 s.cfg.sectorSize
  | .geoSectorCount => BitVec.ofNat 32 s.cfg.sectorCount
  | .geoPageSize => BitVec.ofNat 32 s.cfg.pageSize
  | .geoPageCount => BitVec.ofNat 32 s.cfg.pageCount

/-- The register of an aligned 32-bit access; any other access is none (spec/20 R86). DESIGN CHOICE: aligned is judged by the offset, not by the
host address REG_BASE + offset, since the spec gives REG_BASE no alignment (R13, spec/60 R311). Log entry 18. -/
def accessed (offset width : Nat) : Option Reg := if width = 4 ∧ offset % 4 = 0 then regAt offset else none

/-- A host register read (R31, spec/20 R93). -/
def State.hostRegRead (offset width : Nat) (s : State) : Result :=
  match accessed offset width with
  | some r => .next (s.log (.regRead offset (s.regValue r)))
  | none => s.raise .registerAccess

/-- A host write to a register other than REQ: ARG0 to ARG2 store the value, the rest are read only (R31, R33). -/
def State.hostArgWrite (r : Reg) (v : Word) (s : State) : Result :=
  match r with
  | .arg0 => .next { s with args := { s.args with arg0 := v } }
  | .arg1 => .next { s with args := { s.args with arg1 := v } }
  | .arg2 => .next { s with args := { s.args with arg2 := v } }
  | .req | .stat | .geoFlashSize | .geoSectorSize | .geoSectorCount | .geoPageSize | .geoPageCount => s.raise .registerAccess

/-- A window read the transport translates: MMAP = 1, 1, 2 or 4 bytes, naturally aligned, inside the window, and below 2^24 in 3-byte mode
(spec/20 R90, R95, R96). -/
def State.windowReadOk (s : State) (h : Word) (n : Nat) : Bool :=
  s.stat.mmap && (n == 1 || n == 2 || n == 4) && h.toNat % n == 0 && decide (s.cfg.mmBase.toNat ≤ h.toNat)
    && decide (h.toNat + n ≤ s.cfg.mmBase.toNat + s.cfg.flashSize)
    && (s.stat.addr4 || decide (h.toNat - s.cfg.mmBase.toNat + n ≤ 2 ^ 24))

/-- The flash bytes [a, a + n) as the window shows them in memory-mapped period `k`: free, and stable within the period (spec/20 R87, R97). -/
def windowBytes (k a : Nat) : Nat → List Byte
  | 0 => []
  | n + 1 => Config.windowByte k a :: windowBytes k (a + 1) n

/-- The descriptor of the transport's device read for a window read: the template that ENTER_MEMORY_MAPPED configured, with the address
and the length of this read (spec/20 R95, spec/43 R226). -/
def windowDesc (template : CmdDesc) (a n : Nat) : CmdDesc :=
  { template with addr := BitVec.ofNat 32 a, dlen := BitVec.ofNat 32 n }

/-- A host read of the window (spec/20 R95); any access R95 does not translate is the fault WindowAccess (R96). -/
def State.hostWindowRead (h : Word) (n : Nat) (s : State) : Result :=
  let a := h.toNat - s.cfg.mmBase.toNat
  match s.window with
  | some d =>
    if s.windowReadOk h n then .next (s.log (.windowRead h (windowDesc d a n) (windowBytes s.period a n)))
    else s.raise .windowAccess
  | none => s.raise .windowAccess

/-- Any host write to the window is the fault WindowAccess (spec/20 R96). -/
def State.hostWindowWrite (s : State) : Result := s.raise .windowAccess

/-- A byte of the buffer [L_A2, L_A2 + L_A1) of a running READ or WRITE (spec/60 R332, spec/70 R353). -/
def State.bufferBusy (s : State) (a : Word) : Bool :=
  match s.seq with
  | .running _ =>
    (s.latch.op == requestOp .read || s.latch.op == requestOp .write) && decide (s.latch.a2.toNat ≤ a.toNat)
      && decide (a.toNat < s.latch.a2.toNat + s.latch.a1.toNat)
  | .idle | .faulted _ => false

/-- The host stores a byte at a host address: in the register block an access narrower than a word (spec/20 R86), in the window any write
(R96), elsewhere its own memory, where it has no move on a running request's buffer (spec/60 R332). -/
def State.hostStore (a : Word) (b : Byte) (s : State) : Result :=
  if inRange s.cfg.regBlock a.toNat then s.raise .registerAccess
  else if inRange s.cfg.mmWindow a.toNat then s.hostWindowWrite
  else if s.bufferBusy a then .refused .hostTouchesBuffer
  else .next { s with mem := s.mem.write a.toNat b }

/-- The host loads a byte at a host address: in the register block an access narrower than a word (spec/20 R86), in the window a read of one byte
(R95, R96), elsewhere its own memory, where it has no move on a running request's buffer (spec/60 R332). -/
def State.hostLoad (a : Word) (s : State) : Result :=
  if inRange s.cfg.regBlock a.toNat then s.raise .registerAccess
  else if inRange s.cfg.mmWindow a.toNat then s.hostWindowRead a 1
  else if s.bufferBusy a then .refused .hostTouchesBuffer
  else .next (s.log (.hostLoad a (s.memRead a)))

/-! ### Host assembly (spec/30 R135, R140) -/

/-- `wr R, v`: one aligned 32-bit write. -/
def wr (r : Reg) (v : Word) : HostOp := .regWrite r.offset 4 v

/-- `rd R`: one aligned 32-bit read. -/
def rd (r : Reg) : HostOp := .regRead r.offset 4

/-- The pseudo-instructions of the host assembly (R140). -/
inductive Asm where
  | init
  | read (a n b : Word)
  | write (a n b : Word)
  | erase (s e : Word)
  | eraseChip
  | getStatus
  | getGeometry
  | enterMm
  | enter4b
  deriving DecidableEq, Repr

/-- The expansion of a pseudo-instruction (R140). -/
def Asm.expand : Asm → List HostOp
  | .init => [wr .req 0x1, .wait]
  | .read a n b => [wr .arg0 a, wr .arg1 n, wr .arg2 b, wr .req 0x2, .wait]
  | .write a n b => [wr .arg0 a, wr .arg1 n, wr .arg2 b, wr .req 0x3, .wait]
  | .erase s e => [wr .arg0 s, wr .arg1 e, wr .req 0x4, .wait]
  | .eraseChip => [wr .req 0x5, .wait]
  | .getStatus => [wr .req 0x6, .wait]
  | .getGeometry =>
    [wr .req 0x7, .wait, rd .geoFlashSize, rd .geoSectorSize, rd .geoSectorCount, rd .geoPageSize, rd .geoPageCount]
  | .enterMm => [wr .req 0x8, .wait]
  | .enter4b => [wr .req 0x9, .wait]

/-- A host program: its pseudo-instructions one after the other (R140). -/
def assemble (l : List Asm) : List HostOp := l.flatMap Asm.expand

end Sys2Proof.Machine
end

