-- ==== Sys2Proof/Machine/Agents.lean ====
section
/-! DEFINITION. One step of each agent (spec/10_state.md R30, spec/60_exceptions.md R322): a host access, a sequencer step, an answer of the
transport, or the input block reset; and which of them comes next. -/

namespace Sys2Proof.Machine

/-- A host write of word `w` to REQ (spec/60 R320 steps 1 and 2, then the request's own meaning). -/
def State.hostReqWrite (w : Word) (s : State) : Result :=
  if s.stat.busy then s.raise .reqWhileBusy
  else
    match decodeRequest w with
    | .error _ => .next s.illegalWord
    | .ok i => exec i s

/-- A host register write (spec/10 R31, R32, R33). -/
def State.hostRegWrite (offset width : Nat) (v : Word) (s : State) : Result :=
  match accessed offset width with
  | some .req => s.hostReqWrite v
  | some r => s.hostArgWrite r v
  | none => s.raise .registerAccess

/-- One iteration of `wait` (spec/30 R135): read STAT; the statement is done when BUSY = 0. `rest` is the program after it. Log entry 26. -/
def State.hostWait (rest : List HostOp) (s : State) : State :=
  let t := s.log (.regRead Reg.stat.offset s.stat.word)
  if s.stat.busy then t else { t with host := rest }

/-- The host's next access; a host with nothing left to do stays. -/
def State.hostTurn (s : State) : Result :=
  match s.host with
  | [] => .next s
  | .wait :: rest => .next (s.hostWait rest)
  | .regWrite offset width v :: rest => { s with host := rest }.hostRegWrite offset width v
  | .regRead offset width :: rest => { s with host := rest }.hostRegRead offset width
  | .windowRead h n :: rest => { s with host := rest }.hostWindowRead h n
  | .windowWrite _ _ :: rest => { s with host := rest }.hostWindowWrite
  | .store a b :: rest => { s with host := rest }.hostStore a b
  | .load a :: rest => { s with host := rest }.hostLoad a

/-- The sequencer's next step: at an IssueCmd it runs that frame instruction, elsewhere the statement at its position. It makes no step while
it is idle or a call is outstanding (spec/10 R44, R48). -/
def State.sequencerTurn (s : State) : Result :=
  match s.seq, s.call with
  | .running p, none =>
    match s.frameDue with
    | some i => exec i s
    | none => .next (s.perform p)
  | .running _, some _ => .next s
  | .idle, _ => .next s
  | .faulted r, _ => .fault r

/-- The transport answers the outstanding call with the next answer of State.transport (spec/42 R190). It stays
while no call is outstanding or it has no answer yet (spec/93 I15), and has no move with an answer the spec does not admit (R191, R194). -/
def State.transportTurn (s : State) : Result :=
  match s.seq, s.call, s.transport with
  | .running p, some c, a :: rest =>
    if admits c a then
      .next (State.answered p a { s with transport := rest })
    else .refused .answerNotAdmitted
  | .running _, some _, [] => .next s
  | .running _, none, _ => .next s
  | .idle, _, _ => .next s
  | .faulted r, _, _ => .fault r

/-- Which agent moves when State.turns says nothing: the sequencer while it can, then the transport while it has an answer, then the host.
Log entry 4. -/
def State.defaultTurn (s : State) : Turn :=
  match s.seq, s.call, s.transport with
  | .running _, none, _ => .sequencer
  | .running _, some _, _ :: _ => .transport
  | .running _, some _, [] => .host
  | .idle, _, _ => .host
  | .faulted _, _, _ => .host

/-- The turn of this step, and the state with that turn used up. -/
def State.takeTurn (s : State) : Turn × State :=
  match s.turns with
  | t :: ts => (t, { s with turns := ts })
  | [] => (s.defaultTurn, s)

/-- One step of an agent. After a model fault no agent takes a step; only block reset does (spec/60 R310). -/
def State.runTurn (t : Turn) (s : State) : Result :=
  match t with
  | .blockReset => .next s.blockReset
  | .host =>
    match s.seq with
    | .faulted r => .fault r
    | .idle | .running _ => s.hostTurn
  | .sequencer => s.sequencerTurn
  | .transport => s.transportTurn

/-- The sequencer's state when frame `i` is its next statement: the running request, the latched operands, the cursors and the addressing mode
that frame needs (spec/40 R160 to R171 "issued by"). A request leaves the state as it is. Log entry 12. -/
def State.atFrame (i : Instr) (s : State) : State :=
  let at_ (op : Instr) (p : Pos) (t : State) : State :=
    { t with
      seq := .running p
      call := none
      latch := { t.latch with op := requestOp op }
      stat := { t.stat with busy := true, done := false } }
  match i with
  | .wren => at_ .init (.gateWren .init) s
  | .rsten => at_ .init .initRsten s
  | .rstmem => at_ .init .initRstmem s
  | .en4b => at_ .enter4b .enter4bEn4b s
  | .rdsr => at_ .getStatus .statusCmd s
  | .pp3 a n =>
    at_ .write .writeCmd
      { s with cursor := { s.cursor with cur := zext24 a, chunk := n }, stat := { s.stat with addr4 := false } }
  | .pp4 a n =>
    at_ .write .writeCmd { s with cursor := { s.cursor with cur := a, chunk := n }, stat := { s.stat with addr4 := true } }
  | .qfr3 a n =>
    at_ .read .readCmd { s with latch := { s.latch with a0 := zext24 a, a1 := n }, stat := { s.stat with addr4 := false } }
  | .qfr4 a n => at_ .read .readCmd { s with latch := { s.latch with a0 := a, a1 := n }, stat := { s.stat with addr4 := true } }
  | .se3 a =>
    at_ .erase .eraseCmd { s with cursor := { s.cursor with cur := zext24 a }, stat := { s.stat with addr4 := false } }
  | .se4 a => at_ .erase .eraseCmd { s with cursor := { s.cursor with cur := a }, stat := { s.stat with addr4 := true } }
  | .ce => at_ .eraseChip .chipCmd s
  | .init | .read | .write | .erase | .eraseChip | .getStatus | .getGeometry | .enterMm | .enter4b => s

/-- The state whose very next step runs the table word `w`: a frame is made the sequencer's next statement, any other word is the host's next
access, a write to REQ. Log entry 12. -/
def State.placeWord (nbits w : Nat) (s : State) : State :=
  let toHost : State := { s with host := wr .req (BitVec.ofNat 32 w) :: s.host, turns := .host :: s.turns }
  match decodeTableWord nbits w with
  | none => toHost
  | some i =>
    match i.port with
    | .req => toHost
    | .cmd => { s.atFrame i with turns := .sequencer :: s.turns }

end Sys2Proof.Machine
end

