-- ==== Sys2Proof/Machine/Step.lean ====
section
/-! DEFINITION. One step of the machine: one step of one agent (spec/60_exceptions.md R322). -/

namespace Sys2Proof.Machine

/-- One step: the agent whose turn it is takes one step. -/
def step (s : State) : Host.Outcome State Fault Refusal := s.takeTurn.2.runTurn s.takeTurn.1

/-- `s` with the instruction of a table word placed where the next step runs it. Log entry 12. -/
def State.withFetchWord (s : State) (nbits w : Nat) : State := s.placeWord nbits w

end Sys2Proof.Machine
end

