-- ==== Sys2Proof/Safety.lean ====
section
/-! DEFINITION. The terms the statements use: the end of a run, the invariants of the machine, what the trace shows, and the splitter's
closed forms (spec/44_read_write.md R251, R255, spec/45_erase.md R273, R275). -/

namespace Sys2Proof.Machine

/-! ### The end of a run -/

/-- The end of a run (spec/70 R362): no model fault, SEQ = Idle with no call outstanding, and the host program is finished. -/
def State.runEnded (s : State) : Bool := s.seq == .idle && s.call.isNone && s.host.isEmpty

/-! ### Programs -/

/-- The request whose program a position belongs to (spec/10 R47). -/
def Pos.request : Pos → Instr
  | .gateWren u => u.request
  | .gateWel u => u.request
  | .initRsten | .initRstenReady | .initRstmem | .initRstmemReady | .initClear | .initEn4b | .initEn4bReady | .initSet => .init
  | .enter4bEn4b | .enter4bReady | .enter4bSet => .enter4b
  | .mapCfg | .mapSet => .enterMm
  | .readCmd | .readData | .readStore _ _ | .readAny _ => .read
  | .writeCur | .writeEnda | .writeChunk | .writeOff | .writeCmd | .writeRead _ | .writeData _ | .writeReady => .write
  | .writeNextCur | .writeNextOff | .writeNextChunk => .write
  | .eraseCur | .eraseEnda | .eraseCmd | .eraseReady | .eraseNext => .erase
  | .chipCmd | .chipReady => .eraseChip
  | .statusCmd | .statusData | .statusSave _ => .getStatus
  | .finish i _ => i

/-- Which request can return which code (spec/60 R301). -/
def mayReturn : Instr → ResultCode → Bool
  | .init, c => c == .ok || c == .notSupported
  | .read, c => c == .ok || c == .transportError
  | .write, c => c == .ok || c == .transportError || c == .timeoutError
  | .erase, c => c == .ok || c == .transportError || c == .timeoutError
  | .eraseChip, c => c == .ok || c == .transportError || c == .timeoutError
  | .getStatus, c => c == .ok || c == .transportError || c == .busy
  | .getGeometry, c => c == .ok
  | .enterMm, c => c == .ok || c == .transportError
  | .enter4b, c => c == .ok || c == .transportError || c == .timeoutError
  | .wren, _ | .rsten, _ | .rstmem, _ | .en4b, _ | .rdsr, _ | .pp3 _ _, _ | .pp4 _ _, _ => false
  | .qfr3 _ _, _ | .qfr4 _ _, _ | .se3 _, _ | .se4 _, _ | .ce, _ => false

/-- The call the statement at a position places (spec/42 R190); none for a statement that is no call. -/
def State.callAt (s : State) (p : Pos) : Option Call :=
  match p with
  | .gateWel _ => some (.autoPoll (s.desc .rdsr 0 0) (welPoll s.cfg) .we)
  | .initRstenReady | .initRstmemReady => some (.autoPoll (s.desc .rdsr 0 0) (readyPoll s.cfg) .reset)
  | .initEn4bReady | .enter4bReady => some (.autoPoll (s.desc .rdsr 0 0) (readyPoll s.cfg) .mode4b)
  | .writeReady => some (.autoPoll (s.desc .rdsr 0 0) (readyPoll s.cfg) .program)
  | .eraseReady => some (.autoPoll (s.desc .rdsr 0 0) (readyPoll s.cfg) .sector)
  | .chipReady => some (.autoPoll (s.desc .rdsr 0 0) (readyPoll s.cfg) .chip)
  | .mapCfg => some (.memMapCfg (s.desc .qfr 0 0) s.cfg.mmTimeoutCfg)
  | .readData => some (.rxData s.latch.a1.toNat)
  | .statusData => some (.rxData statusBytes)
  | .writeData buf => some (.txData buf)
  | .gateWren _ | .initRsten | .initRstmem | .initEn4b | .enter4bEn4b | .readCmd | .writeCmd | .eraseCmd | .chipCmd
  | .statusCmd =>
    match s.frameAt p with
    | some i => (frameDesc s.cfg i).map Call.issueCmd
    | none => none
  | .initClear | .initSet | .enter4bSet | .mapSet | .readStore _ _ | .readAny _ | .statusSave _ | .finish _ _ => none
  | .writeCur | .writeEnda | .writeChunk | .writeOff | .writeRead _ | .writeNextCur | .writeNextOff | .writeNextChunk => none
  | .eraseCur | .eraseEnda | .eraseNext => none

/-! ### Invariants -/

/-- BUSY = 1 exactly while a request runs (spec/10 R34, R44); a model fault leaves BUSY as it was (spec/60 R310). -/
def State.busyAgrees (s : State) : Bool :=
  match s.seq with
  | .running _ => s.stat.busy
  | .idle => !s.stat.busy
  | .faulted _ => true

/-- BUSY and DONE are never both 1 (spec/10 R35). -/
def State.busyNotDone (s : State) : Bool := !(s.stat.busy && s.stat.done)

/-- A call is outstanding only while a request runs, and it is the call of the request's position (spec/10 R47, R48). -/
def State.callAgrees (s : State) : Bool :=
  match s.seq, s.call with
  | .running p, some c => s.callAt p == some c
  | .idle, some _ => false
  | _, none => true
  | .faulted _, some _ => true

/-- L_OP is the request whose program runs (spec/10 R45). -/
def State.opAgrees (s : State) : Bool :=
  match s.seq with
  | .running p => s.latch.op == requestOp p.request
  | .idle | .faulted _ => true

/-- A request that is about to finish does so with a code of its row (spec/60 R301). -/
def State.codeAgrees (s : State) : Bool :=
  match s.seq with
  | .running (.finish i c) => mayReturn i c
  | .running _ | .idle | .faulted _ => true

/-- The positions a request can have while MMAP = 1: GET_GEOMETRY's, and the end of the ENTER_MEMORY_MAPPED that set it (spec/43 R226, R231). -/
def Pos.quiet : Pos → Bool
  | .finish i c => i == .getGeometry || i == .enterMm && c == .ok
  | _ => false

/-- While MMAP = 1 no call is outstanding and none can come (spec/43 R231). -/
def State.quietInMm (s : State) : Bool :=
  !s.stat.mmap || s.call.isNone &&
    match s.seq with
    | .running p => p.quiet
    | .idle | .faulted _ => true

/-- The transport's configuration agrees with MMAP: with MMAP = 1 the template is Desc(QFR, 0, 0) for the mode (spec/20 R95, spec/43 R226). -/
def State.windowAgrees (s : State) : Bool := s.window == if s.stat.mmap then some (s.desc .qfr 0 0) else none

/-- The latched range of a running READ or WRITE passed the acceptance checks (spec/60 R320 step 4). -/
def State.transferOk (s : State) : Bool :=
  decide (s.latch.a0.toNat < s.cfg.flashSize) && decide (s.latch.a0.toNat + s.latch.a1.toNat ≤ s.cfg.flashSize)
    && (s.stat.addr4 || decide (s.latch.a0.toNat < 2 ^ 24) && decide (s.latch.a0.toNat + s.latch.a1.toNat ≤ 2 ^ 24))
    && decide (s.latch.a2.toNat + s.latch.a1.toNat ≤ 2 ^ 32) && s.cfg.bufferOk s.latch.a2.toNat s.latch.a1.toNat

/-- The splitter's state inside WRITE's loop (spec/44 R250, R251): the chunk lies in the range and in one page of `P` bytes, its end is a page
boundary or the end of the range, the offset is CUR - L_A0, and a chunk is empty only in a WRITE of length 0. -/
def Cursor.chunkOk (P : Nat) (l : Latch) (c : Cursor) : Bool :=
  let a := l.a0.toNat
  let n := l.a1.toNat
  let cur := c.cur.toNat
  let chunk := c.chunk.toNat
  c.enda.toNat == a + n && decide (a ≤ cur) && decide (cur + chunk ≤ a + n) && c.off.toNat == cur - a
    && decide (chunk ≤ P - cur % P) && (cur + chunk == a + n || (cur + chunk) % P == 0) && (chunk != 0 || n == 0)

/-- The operands of a running WRITE inside its loop, the splitter's state being `c`. -/
def State.writeOk (s : State) (c : Cursor) : Bool := s.transferOk && c.chunkOk s.cfg.pageSize s.latch

/-- `got` is what host memory holds at the chunk's source, from L_A2 + OFF on (spec/44 R252). -/
def State.sourceHas (s : State) (got : List Byte) : Bool := got == s.bytesAt (s.latch.a2 + s.cursor.off) got.length

/-- The latched range of a running ERASE_SECTOR_RANGE passed the acceptance checks (spec/45 R271). -/
def State.eraseOk (s : State) : Bool :=
  decide (s.latch.a0.toNat ≤ s.latch.a1.toNat) && decide (s.latch.a1.toNat < s.cfg.flashSize)
    && (s.stat.addr4 || decide (s.latch.a1.toNat < 2 ^ 24))

/-- The splitter's state inside ERASE_SECTOR_RANGE's loop (spec/45 R272, R273): CUR is a boundary of a sector of `S` bytes, in the range. -/
def Cursor.sectorOk (S : Nat) (l : Latch) (c : Cursor) : Bool :=
  c.enda == l.a1 && c.cur.toNat % S == 0 && decide (sectorBase S l.a0.toNat ≤ c.cur.toNat) && decide (c.cur.toNat ≤ l.a1.toNat)

/-- The operands of the running request at its position: what acceptance checked, the registers its program has set so far, the splitter's state
inside the loops, and the local values. -/
def State.operandsOk (s : State) : Bool :=
  match s.seq with
  | .running p =>
    match p with
    | .readCmd | .readData | .writeCur => s.transferOk
    | .readStore i rest => s.transferOk && i + rest.length == s.latch.a1.toNat
    | .readAny i => s.transferOk && decide (i < s.latch.a1.toNat)
    | .writeEnda => s.transferOk && s.cursor.cur == s.latch.a0
    | .writeChunk => s.transferOk && s.cursor.cur == s.latch.a0 && s.cursor.enda == s.latch.a0 + s.latch.a1
    | .writeOff =>
      s.transferOk && s.cursor.cur == s.latch.a0 && s.cursor.enda == s.latch.a0 + s.latch.a1
        && s.cursor.chunk == firstChunk s.cfg.pageSize s.latch.a0 s.latch.a1
    | .gateWren .write | .gateWel .write | .writeCmd | .writeReady | .writeNextCur => s.writeOk s.cursor
    | .writeRead got => s.writeOk s.cursor && decide (got.length < s.cursor.chunk.toNat) && s.sourceHas got
    | .writeData buf => s.writeOk s.cursor && buf.length == s.cursor.chunk.toNat && s.sourceHas buf
    | .writeNextOff => s.writeOk { s.cursor with cur := s.cursor.cur - s.cursor.chunk }
    | .writeNextChunk => s.writeOk { s.cursor with cur := s.cursor.cur - s.cursor.chunk, off := s.cursor.off - s.cursor.chunk }
    | .eraseCur => s.eraseOk
    | .eraseEnda => s.eraseOk && s.cursor.cur == BitVec.ofNat 32 (sectorBase s.cfg.sectorSize s.latch.a0.toNat)
    | .gateWren .erase | .gateWel .erase | .eraseCmd | .eraseReady | .eraseNext =>
      s.eraseOk && s.cursor.sectorOk s.cfg.sectorSize s.latch
    | _ => true
  | .idle | .faulted _ => true

/-- The control invariant: flags, position, outstanding call, latched opcode, result code and transport configuration agree. -/
def State.controlInv (s : State) : Bool :=
  s.busyAgrees && s.busyNotDone && s.opAgrees && s.codeAgrees && s.quietInMm && s.windowAgrees

/-- The operand invariant, with legal parameters. -/
def State.operandInv (s : State) : Bool := s.cfg.valid && s.operandsOk

/-! ### The trace -/

/-- The calls and answers of a trace: what passes between THE CORE and the transport (spec/00 R17). -/
def busEvents : List Event → List Event
  | [] => []
  | .call c :: es => .call c :: busEvents es
  | .answer a :: es => .answer a :: busEvents es
  | .memRead _ _ :: es => busEvents es
  | .memWrite _ _ :: es => busEvents es
  | .regRead _ _ :: es => busEvents es
  | .windowRead _ _ _ :: es => busEvents es
  | .hostLoad _ _ :: es => busEvents es

/-- The frames of a trace, oldest first: the descriptors of its IssueCmd calls. -/
def frames : List Event → List CmdDesc
  | [] => []
  | .call (.issueCmd d) :: es => d :: frames es
  | _ :: es => frames es

/-- The data bytes of a trace's TxData calls, oldest first. -/
def sentBytes : List Event → List Byte
  | [] => []
  | .call (.txData bs) :: es => bs ++ sentBytes es
  | _ :: es => sentBytes es

/-- The trace ends, as far as the transport is concerned, with WREN answered OK (spec/41 R180). -/
def wrenDone (p : Params) (es : List Event) : Prop :=
  ∃ pre, busEvents es = pre ++ [.call (.issueCmd (plainDesc p.cmdWren)), .answer .ok]

/-- The trace ends, as far as the transport is concerned, with a successful write-enable gate: WREN answered OK, then the WE poll answered
MATCH (spec/41 R180, R182). -/
def gateDone (p : Params) (es : List Event) : Prop :=
  ∃ pre ss, matchedSamples (welPoll p) ss = true ∧ busEvents es = pre ++
    [.call (.issueCmd (plainDesc p.cmdWren)), .answer .ok, .call (.autoPoll (statusDesc p.cmdRdsr) (welPoll p) .we), .answer (.matched ss)]

/-- What the trace shows at the positions from the gate to the mutating frame (spec/41 R182). -/
def State.gateTraceOk (s : State) : Prop :=
  match s.seq, s.call with
  | .running (.gateWren _), some _ =>
    ∃ pre, busEvents s.trace = pre ++ [.call (.issueCmd (plainDesc s.cfg.cmdWren))]
  | .running (.gateWel _), none => wrenDone s.cfg s.trace
  | .running (.gateWel _), some _ =>
    ∃ pre, busEvents s.trace = pre ++
      [.call (.issueCmd (plainDesc s.cfg.cmdWren)), .answer .ok, .call (.autoPoll (statusDesc s.cfg.cmdRdsr) (welPoll s.cfg) .we)]
  | .running .initRsten, none => gateDone s.cfg s.trace
  | .running .writeCmd, none => gateDone s.cfg s.trace
  | .running .eraseCmd, none => gateDone s.cfg s.trace
  | .running .chipCmd, none => gateDone s.cfg s.trace
  | _, _ => True

/-! ### The splitter's closed forms -/

/-- The number of chunks of a WRITE of `n` bytes at `a` with pages of `P` bytes (spec/44 R255). -/
def chunkCount (P a n : Nat) : Nat := if n = 0 then 1 else (a % P + n + P - 1) / P

/-- The number of page boundaries strictly inside (a, a + n) (spec/44 R255): the multiples b of P with a < b < a + n. -/
def boundariesInside (P a n : Nat) : Nat := ((List.range n).filter fun i => i != 0 && (a + i) % P == 0).length

/-- Chunk `k` of a WRITE of `n` bytes at `a` (spec/44 R251): flash address and size. -/
def chunkAt (P a n : Nat) : Nat → Nat × Nat
  | 0 => (a, min n (P - a % P))
  | k + 1 =>
    let c := a + min n (P - a % P) + k * P
    (c, min P (a + n - c))

/-- The chunks of a WRITE in order (spec/44 R251). -/
def chunks (P a n : Nat) : List (Nat × Nat) := (List.range (chunkCount P a n)).map (chunkAt P a n)

/-- The number of sector erases of a range with sectors of `S` bytes (spec/45 R275). -/
def eraseCount (S a e : Nat) : Nat := sectorOf S e - sectorOf S a + 1

/-- The address of the sector-erase frame `k` of a range (spec/45 R273). -/
def eraseAddrAt (S a k : Nat) : Nat := sectorBase S a + k * S

/-- The addresses of the sector-erase frames of a range (spec/45 R273). -/
def eraseAddrs (S a e : Nat) : List Nat := (List.range (eraseCount S a e)).map (eraseAddrAt S a)

/-- The range a READ or WRITE may have (spec/60 R320 step 4): inside the flash, encodable in the mode, and a buffer inside HOST_MEM_OK. -/
def State.transferArgsOk (s : State) : Prop :=
  s.args.arg0.toNat < s.cfg.flashSize ∧ s.args.arg0.toNat + s.args.arg1.toNat ≤ s.cfg.flashSize ∧
  (s.stat.addr4 = false → s.args.arg0.toNat < 2 ^ 24 ∧ s.args.arg0.toNat + s.args.arg1.toNat ≤ 2 ^ 24) ∧
  s.args.arg2.toNat + s.args.arg1.toNat ≤ 2 ^ 32 ∧
  ∀ i, i < s.args.arg1.toNat → s.cfg.hostMemOk (s.args.arg2.toNat + i) = true

/-- The range an ERASE_SECTOR_RANGE may have (spec/45 R271). -/
def State.eraseArgsOk (s : State) : Prop :=
  s.args.arg0.toNat ≤ s.args.arg1.toNat ∧ s.args.arg1.toNat < s.cfg.flashSize ∧
  (s.stat.addr4 = false → s.args.arg1.toNat < 2 ^ 24)

/-- The code a request ends with when the call of a position fails (spec/60 R302): NOT_SUPPORTED for INIT, TIMEOUT_ERROR for a poll,
TRANSPORT_ERROR for any other call. -/
def failureCode (p : Pos) : ResultCode :=
  match p.request, p with
  | .init, _ => .notSupported
  | _, .gateWel _ | _, .enter4bReady | _, .writeReady | _, .eraseReady | _, .chipReady => .timeoutError
  | _, _ => .transportError

/-! ### Runs of one request -/

/-- The idle machine with the host about to write `w` to REQ, `rest` the host program after it, `answers` what the transport will answer;
the agents move by default, and no request is running, MMAP = 0. -/
def State.presents (s : State) (w : Word) (rest : List HostOp) (answers : List Answer) : Prop :=
  s.turns = [] ∧ s.host = wr .req w :: rest ∧ s.transport = answers ∧ s.seq = .idle ∧ s.call = none ∧
  s.stat.busy = false ∧ s.stat.mmap = false

/-- The trace of calls and their answers, in order (spec/00 R17). -/
def exchange : List (Call × Answer) → List Event
  | [] => []
  | x :: xs => .call x.1 :: .answer x.2 :: exchange xs

/-- `IssueCmd` of a frame without address and data. -/
def plainCall (code : Byte) : Call := .issueCmd (plainDesc code)

/-- The gate's poll (spec/41 R180). -/
def welCall (p : Params) : Call := .autoPoll (statusDesc p.cmdRdsr) (welPoll p) .we

/-- A ready wait's poll (spec/42 R195). -/
def readyCall (p : Params) (c : PollClass) : Call := .autoPoll (statusDesc p.cmdRdsr) (readyPoll p) c

/-- The calls and answers of a successful gate; `w` are the samples of its poll (spec/41 R180). -/
def gateCalls (p : Params) (w : List Byte) : List (Call × Answer) := [(plainCall p.cmdWren, .ok), (welCall p, .matched w)]

/-- The calls and answers of chunk `c` (flash address and size) of a WRITE of the operands in ARG0 to ARG2, all successful; `w` and `b` are the
samples of its polls (spec/44 R250). -/
def State.chunkCalls (s : State) (c : Nat × Nat) (w b : List Byte) : List (Call × Answer) :=
  gateCalls s.cfg w ++
    [(.issueCmd (s.desc .pp (BitVec.ofNat 32 c.1) (BitVec.ofNat 32 c.2)), .ok),
     (.txData (s.bytesAt (s.args.arg2 + BitVec.ofNat 32 (c.1 - s.args.arg0.toNat)) c.2), .ok),
     (readyCall s.cfg .program, .matched b)]

/-- The calls and answers of the erase of the sector at `a`, all successful; `w` and `b` are the samples of its polls (spec/45 R272). -/
def State.sectorCalls (s : State) (a : Nat) (w b : List Byte) : List (Call × Answer) :=
  gateCalls s.cfg w ++ [(.issueCmd (s.desc .se (BitVec.ofNat 32 a) 0), .ok), (readyCall s.cfg .sector, .matched b)]

/-- The samples of poll `k` of `n`, each a list the poll `q` admits as MATCH (spec/42 R194). -/
def samplesMatch (q : PollDesc) (n : Nat) (ss : Nat → List Byte) : Prop := ∀ k, k < n → matchedSamples q (ss k) = true

end Sys2Proof.Machine
end

