-- ==== Sys2Proof/Certificates/Slice0/Obligations.lean ====
section
/-! DEFINITION. The statements about the machine, one for each entry of OBLIGATIONS.json. -/

open Sys2Proof Sys2Proof.Machine

/-! ### Encodings -/

/-- R111, R110: a REQ word is one of the nine requests iff w[31:4] = 0 and w[3:0] is 0x1 to 0x9, and it is the word of that request; every
other word is refused as illegal. -/
def Obligations.RequestWordsAreTheNine : Prop :=
  ∀ w : Word,
    (w.extractLsb' 4 28 = 0 ∧ 1 ≤ (w.extractLsb' 0 4).toNat ∧ (w.extractLsb' 0 4).toNat ≤ 9 →
      ∃ i, decodeRequest w = .ok i ∧ i.port = .req ∧ requestWord i = w) ∧
    (¬ (w.extractLsb' 4 28 = 0 ∧ 1 ≤ (w.extractLsb' 0 4).toNat ∧ (w.extractLsb' 0 4).toNat ≤ 9) →
      decodeRequest w = .error .illegalRequest) ∧
    decodeRequest 1 = .ok .init ∧ decodeRequest 2 = .ok .read ∧ decodeRequest 3 = .ok .write ∧ decodeRequest 4 = .ok .erase ∧
    decodeRequest 5 = .ok .eraseChip ∧ decodeRequest 6 = .ok .getStatus ∧ decodeRequest 7 = .ok .getGeometry ∧
    decodeRequest 8 = .ok .enterMm ∧ decodeRequest 9 = .ok .enter4b

/-- The table of R126: the three words of each of the twelve frame kinds. -/
def Obligations.FrameWordsFollowTheTable : Prop :=
  ∀ (p : Params) (a : Word) (b : Addr24) (n : Word),
    encode p .wren = [0x00000000 ||| p.cmdWren.setWidth 32, 0, 0] ∧
    encode p .rsten = [0x00000000 ||| p.cmdRsten.setWidth 32, 0, 0] ∧
    encode p .rstmem = [0x00000000 ||| p.cmdRstmem.setWidth 32, 0, 0] ∧
    encode p .en4b = [0x00000000 ||| p.cmdEn4b.setWidth 32, 0, 0] ∧
    encode p .rdsr = [0x00000800 ||| p.cmdRdsr.setWidth 32, 0, 1] ∧
    encode p (.pp3 b n) = [0x00003300 ||| p.cmdPp3.setWidth 32, b.setWidth 32, n] ∧
    encode p (.pp4 a n) = [0x00003500 ||| p.cmdPp4.setWidth 32, a, n] ∧
    encode p (.qfr3 b n) = [0x00002B00 ||| p.dummyQfr.setWidth 32 <<< 16 ||| p.cmdQfr3.setWidth 32, b.setWidth 32, n] ∧
    encode p (.qfr4 a n) = [0x00002D00 ||| p.dummyQfr.setWidth 32 <<< 16 ||| p.cmdQfr4.setWidth 32, a, n] ∧
    encode p (.se3 b) = [0x00000300 ||| p.cmdSe3.setWidth 32, b.setWidth 32, 0] ∧
    encode p (.se4 a) = [0x00000500 ||| p.cmdSe4.setWidth 32, a, 0] ∧
    encode p .ce = [0x00000000 ||| p.cmdCe.setWidth 32, 0, 0]

/-- Decoding an encoded instruction gives it back, with legal parameters and every operand at every value its field has. The kinds that share a
layout are told apart because legal codes are distinct (R127). -/
def Obligations.DecodeOfEncode : Prop :=
  ∀ (p : Params) (i : Instr), p.valid = true → decode p i.port (encode p i) = .ok i

/-- Every word list that decodes is the encoding of what it decodes to, at that instruction's port: no word reads as a neighbour. -/
def Obligations.EncodeOfDecode : Prop :=
  ∀ (p : Params) (port : Port) (ws : List Word) (i : Instr), decode p port ws = .ok i → i.port = port ∧ encode p i = ws

/-- R116, R119: in every descriptor Desc builds, ADDR_PRESENT = 1 iff AWIDTH is not 00, the reserved fields are 0, and AWIDTH = 11 and
DDIR = 11 do not occur; R118: a descriptor without data has DWIDTH = 0 and DLEN = 0. -/
def Obligations.DescriptorFieldRules : Prop :=
  ∀ (s : State) (k : Kind) (a n : Word),
    let w := (s.desc k a n).dw0
    (w.extractLsb' 8 1 = 1 ↔ w.extractLsb' 9 2 ≠ 0) ∧
    w.extractLsb' 14 2 = 0 ∧ w.extractLsb' 21 11 = 0 ∧ w.extractLsb' 9 2 ≠ 3 ∧ w.extractLsb' 11 2 ≠ 3 ∧
    (w.extractLsb' 11 2 = 0 → w.extractLsb' 13 1 = 0 ∧ (s.desc k a n).dlen = 0)

/-- R152 with R151: for PP, QFR and SE the 4-byte code and the 32-bit field are chosen iff ADDR4 = 1, else the 3-byte code and a[23:0]; and Desc of
the kind is the descriptor of that frame. -/
def Obligations.AddressingModeSelectsTheFrame : Prop :=
  ∀ (s : State) (a n : Word),
    (s.stat.addr4 = true →
      frameDesc s.cfg (.pp4 a n) = some (s.desc .pp a n) ∧ frameDesc s.cfg (.qfr4 a n) = some (s.desc .qfr a n) ∧
      frameDesc s.cfg (.se4 a) = some (s.desc .se a n) ∧ s.programFrame a n = .pp4 a n ∧ s.quadReadFrame a n = .qfr4 a n ∧
      s.sectorFrame a = .se4 a) ∧
    (s.stat.addr4 = false →
      frameDesc s.cfg (.pp3 (low24 a) n) = some (s.desc .pp a n) ∧ frameDesc s.cfg (.qfr3 (low24 a) n) = some (s.desc .qfr a n) ∧
      frameDesc s.cfg (.se3 (low24 a)) = some (s.desc .se a n) ∧ s.programFrame a n = .pp3 (low24 a) n ∧
      s.quadReadFrame a n = .qfr3 (low24 a) n ∧ s.sectorFrame a = .se3 (low24 a))

/-- R192 and R120: the words of the two poll descriptors THE CORE uses. -/
def Obligations.PollWordsFollowTheLayout : Prop :=
  ∀ p : Params,
    pollRegs (welPoll p) = ⟨p.pollInterval.setWidth 32 <<< 16 ||| 0x0200 ||| p.cmdRdsr.setWidth 32, p.welMask.setWidth 32⟩ ∧
    pollRegs (readyPoll p) = ⟨p.pollInterval.setWidth 32 <<< 16 ||| 0x0300 ||| p.cmdRdsr.setWidth 32, p.busyMask.setWidth 32⟩

/-- R193: a sample matches a poll by MASK[7:0] and MODE; the gate's poll matches when every bit of WEL_MASK is set in the sample, the ready poll when
every bit of BUSY_MASK is clear. -/
def Obligations.SampleMatchByMask : Prop :=
  ∀ (p : Params) (q : PollDesc) (b : Byte),
    (q.mode = .bitsSet → (sampleMatches b q = true ↔ b &&& q.mask.extractLsb' 0 8 = q.mask.extractLsb' 0 8)) ∧
    (q.mode = .bitsClear → (sampleMatches b q = true ↔ b &&& q.mask.extractLsb' 0 8 = 0)) ∧
    (sampleMatches b (welPoll p) = true ↔ ∀ j, j < 8 → p.welMask.getLsbD j = true → b.getLsbD j = true) ∧
    (sampleMatches b (readyPoll p) = true ↔ ∀ j, j < 8 → p.busyMask.getLsbD j = true → b.getLsbD j = false)

/-- R194: the answers of an auto-poll the model admits are exactly MATCH with a last sample that matches and no earlier one, and NOMATCH with no
matching sample; and the request goes on in the same way whatever the samples: THE CORE reads only the outcome. -/
def Obligations.PollAnswersAdmitted : Prop :=
  ∀ (d : CmdDesc) (p : PollDesc) (c : PollClass) (a : Answer),
    (admits (.autoPoll d p c) a = true ↔
      (∃ pre s, a = .matched (pre ++ [s]) ∧ sampleMatches s p = true ∧ ∀ x ∈ pre, sampleMatches x p = false) ∨
      (∃ ss, a = .noMatch ss ∧ ∀ x ∈ ss, sampleMatches x p = false)) ∧
    ∀ (s : State) (q : Pos) (xs ys : List Byte),
      s.after (.matched xs) q = s.after (.matched ys) q ∧ s.after (.noMatch xs) q = s.after (.noMatch ys) q

/-- Words of the opcode table, written out from the spec's encodings, read as the rows they stand for.
That a row with INSTR open reads as its kind is the model's reading (log entry 14). -/
def Obligations.TableWordsDecode : Prop :=
  decodeTableWord 32 0x00000003 = some .write ∧ decodeTableWord 32 0x00000009 = some .enter4b ∧
  decodeTableWord 32 0x00000800 = some .rdsr ∧ decodeTableWord 96 0x00000006000000FA00003300 = some (.pp3 0xFA 6) ∧
  decodeTableWord 96 0x000000040000100000082D00 = some (.qfr4 0x1000 4) ∧
  decodeTableWord 64 0x03FF000000000500 = some (.se4 0x03FF0000)

/-! ### The request's meaning: the write of its word to REQ (R320) -/

/-- The six requests without operand checks are accepted when no request runs and MMAP = 0: R45's writes, nothing else.
That exec of a request is its acceptance is the model's choice (log entry 27). -/
def Obligations.PlainRequestsAccepted : Prop :=
  ∀ s : State, (∀ r, s.seq ≠ .faulted r) → s.stat.busy = false → s.stat.mmap = false →
    let t (op : BitVec 4) (p : Pos) : State :=
      { s with
        latch := ⟨op, s.args.arg0, s.args.arg1, s.args.arg2⟩
        stat := { s.stat with done := false, busy := true }
        seq := .running p }
    exec .init s = .next (t 1 (.gateWren .init)) ∧ exec .eraseChip s = .next (t 5 (.gateWren .chip)) ∧
    exec .getStatus s = .next (t 6 .statusCmd) ∧ exec .getGeometry s = .next (t 7 (.finish .getGeometry .ok)) ∧
    exec .enterMm s = .next (t 8 .mapCfg) ∧ exec .enter4b s = .next (t 9 .enter4bEn4b)

/-- READ, WRITE and ERASE_SECTOR_RANGE are accepted when no request runs, MMAP = 0 and the operands meet the preconditions of R240 and R271: R45's
writes, nothing else.
That exec of a request is its acceptance is the model's choice (log entry 27). -/
def Obligations.OperandRequestsAccepted : Prop :=
  ∀ s : State, (∀ r, s.seq ≠ .faulted r) → s.stat.busy = false → s.stat.mmap = false →
    let t (op : BitVec 4) (p : Pos) : State :=
      { s with
        latch := ⟨op, s.args.arg0, s.args.arg1, s.args.arg2⟩
        stat := { s.stat with done := false, busy := true }
        seq := .running p }
    (s.transferArgsOk → exec .read s = .next (t 2 .readCmd) ∧ exec .write s = .next (t 3 .writeCur)) ∧
    (s.eraseArgsOk → exec .erase s = .next (t 4 .eraseCur))

/-- R231: while MMAP = 1 and no request runs, GET_GEOMETRY is accepted, every other request is the fault ReqInMemoryMapped, and an illegal word
completes with NOT_SUPPORTED; and while MMAP = 1, whether a request runs or not, THE CORE issues no frame (in a state that meets the control
invariant). -/
def Obligations.OnlyGeometryInMemoryMappedMode : Prop :=
  ∀ s : State, (∀ r, s.seq ≠ .faulted r) → s.stat.mmap = true →
    (s.stat.busy = false →
      exec .getGeometry s = .next
        { s with
          latch := ⟨7, s.args.arg0, s.args.arg1, s.args.arg2⟩
          stat := { s.stat with done := false, busy := true }
          seq := .running (.finish .getGeometry .ok) } ∧
      (∀ i : Instr, i.port = .req → i ≠ .getGeometry → exec i s = .next { s with seq := .faulted .reqInMemoryMapped }) ∧
      ∀ w : Word, decodeRequest w = .error .illegalRequest →
        s.hostReqWrite w = .next { s with stat := { s.stat with result := .notSupported, done := true } }) ∧
    (s.controlInv = true → ∀ (i : Instr) (t : State), i.port = .cmd → exec i s ≠ .next t)

/-- R320 step 4 for READ and WRITE: the first check that fails decides the fault, and nothing but SEQ changes. -/
def Obligations.TransferFaultOrder : Prop :=
  ∀ s : State, (∀ r, s.seq ≠ .faulted r) → s.stat.busy = false → s.stat.mmap = false → ∀ i : Instr, i = .read ∨ i = .write →
    let a0 := s.args.arg0.toNat
    let a1 := s.args.arg1.toNat
    let a2 := s.args.arg2.toNat
    let range := a0 < s.cfg.flashSize ∧ a0 + a1 ≤ s.cfg.flashSize
    let encodable := s.stat.addr4 = true ∨ a0 < 2 ^ 24 ∧ a0 + a1 ≤ 2 ^ 24
    let buffer := a2 + a1 ≤ 2 ^ 32 ∧ ∀ j, j < a1 → s.cfg.hostMemOk (a2 + j) = true
    (¬ range → exec i s = .next { s with seq := .faulted .outOfRange }) ∧
    (range → ¬ encodable → exec i s = .next { s with seq := .faulted .addrNotEncodable }) ∧
    (range → encodable → ¬ buffer → exec i s = .next { s with seq := .faulted .bufferInvalid })

/-- R320 step 4 for ERASE_SECTOR_RANGE: order first, then range, then encodability. -/
def Obligations.EraseFaultOrder : Prop :=
  ∀ s : State, (∀ r, s.seq ≠ .faulted r) → s.stat.busy = false → s.stat.mmap = false →
    let a0 := s.args.arg0.toNat
    let a1 := s.args.arg1.toNat
    (a1 < a0 → exec .erase s = .next { s with seq := .faulted .eraseRangeOrder }) ∧
    (a0 ≤ a1 → s.cfg.flashSize ≤ a1 → exec .erase s = .next { s with seq := .faulted .outOfRange }) ∧
    (a0 ≤ a1 → a1 < s.cfg.flashSize → s.stat.addr4 = false → 2 ^ 24 ≤ a1 →
      exec .erase s = .next { s with seq := .faulted .addrNotEncodable })

/-- R320 step 1: any word written to REQ while BUSY = 1, legal or not, is the fault ReqWhileBusy; nothing but SEQ changes. -/
def Obligations.RequestWhileBusyFaults : Prop :=
  ∀ (s : State) (w : Word), s.stat.busy = true → (∀ r, s.seq ≠ .faulted r) →
    s.hostReqWrite w = .next { s with seq := .faulted .reqWhileBusy } ∧
    ∀ i : Instr, i.port = .req → exec i s = .next { s with seq := .faulted .reqWhileBusy }

/-- R321: an illegal word while BUSY = 0 completes in the same step with NOT_SUPPORTED and DONE = 1; BUSY, SEQ, the latch, the modes and LAST_SR
stay, and no call is made, also in MM mode. -/
def Obligations.IllegalWordNotSupported : Prop :=
  ∀ (s : State) (w : Word) (rest : List HostOp) (ts : List Turn),
    s.turns = .host :: ts → s.host = wr .req w :: rest → (∀ r, s.seq ≠ .faulted r) → s.stat.busy = false →
    ¬ (1 ≤ w.toNat ∧ w.toNat ≤ 9) →
    step s = .next { s with turns := ts, host := rest, stat := { s.stat with result := .notSupported, done := true } }

/-! ### The frames (R160 to R171) -/

/-- WREN, RSTEN, RSTMEM, EN4B, CE and RDSR at the statement that issues them: CMD_DESC holds the words of R126, the call is outstanding and in the
trace, nothing else changes. -/
def Obligations.FixedFramesIssued : Prop :=
  ∀ (s : State) (p : Pos), s.seq = .running p → s.call = none →
    let t (dw0 dw2 : Word) (d : CmdDesc) : State :=
      { s with cmdDesc := ⟨dw0, 0, dw2⟩, call := some (.issueCmd d), trace := s.trace ++ [.call (.issueCmd d)] }
    let plain (code : Byte) : State := t (0x00000000 ||| code.setWidth 32) 0 (plainDesc code)
    ((∃ u, p = .gateWren u) → exec .wren s = .next (plain s.cfg.cmdWren)) ∧
    (p = .initRsten → exec .rsten s = .next (plain s.cfg.cmdRsten)) ∧
    (p = .initRstmem → exec .rstmem s = .next (plain s.cfg.cmdRstmem)) ∧
    (p = .initEn4b ∨ p = .enter4bEn4b → exec .en4b s = .next (plain s.cfg.cmdEn4b)) ∧
    (p = .chipCmd → exec .ce s = .next (plain s.cfg.cmdCe)) ∧
    (p = .statusCmd →
      exec .rdsr s = .next (t (0x00000800 ||| s.cfg.cmdRdsr.setWidth 32) 1 (statusDesc s.cfg.cmdRdsr)))

/-- PP3, PP4, QFR3, QFR4, SE3 and SE4 at the statement that issues them, in the current mode and for the request's own operands: CMD_DESC holds the
words of R165 to R170, the call is outstanding and in the trace, nothing else changes. -/
def Obligations.AddressedFramesIssued : Prop :=
  ∀ s : State, s.call = none →
    let issues (i : Instr) (dw0 dw1 dw2 : Word) : Prop :=
      ∃ d : CmdDesc, d.words = [dw0, dw1, dw2] ∧
        exec i s = .next
          { s with cmdDesc := ⟨dw0, dw1, dw2⟩, call := some (.issueCmd d), trace := s.trace ++ [.call (.issueCmd d)] }
    let cur := s.cursor.cur
    let low (a : Word) : Word := (a.setWidth 24).setWidth 32
    let dummy : Word := s.cfg.dummyQfr.setWidth 32 <<< 16
    (s.seq = .running .writeCmd → s.stat.addr4 = false →
      issues (.pp3 (cur.setWidth 24) s.cursor.chunk) (0x00003300 ||| s.cfg.cmdPp3.setWidth 32) (low cur) s.cursor.chunk) ∧
    (s.seq = .running .writeCmd → s.stat.addr4 = true →
      issues (.pp4 cur s.cursor.chunk) (0x00003500 ||| s.cfg.cmdPp4.setWidth 32) cur s.cursor.chunk) ∧
    (s.seq = .running .readCmd → s.stat.addr4 = false →
      issues (.qfr3 (s.latch.a0.setWidth 24) s.latch.a1) (0x00002B00 ||| dummy ||| s.cfg.cmdQfr3.setWidth 32) (low s.latch.a0)
        s.latch.a1) ∧
    (s.seq = .running .readCmd → s.stat.addr4 = true →
      issues (.qfr4 s.latch.a0 s.latch.a1) (0x00002D00 ||| dummy ||| s.cfg.cmdQfr4.setWidth 32) s.latch.a0 s.latch.a1) ∧
    (s.seq = .running .eraseCmd → s.stat.addr4 = false →
      issues (.se3 (cur.setWidth 24)) (0x00000300 ||| s.cfg.cmdSe3.setWidth 32) (low cur) 0) ∧
    (s.seq = .running .eraseCmd → s.stat.addr4 = true →
      issues (.se4 cur) (0x00000500 ||| s.cfg.cmdSe4.setWidth 32) cur 0)

/-- "Issued by" of R160 to R171: a frame is issued only by the request the spec names, with no call outstanding (R48), PP, QFR and SE only in their
addressing mode and for the request's own operands.
That any other frame is refused is the model's reading (log entry 13). -/
def Obligations.FramesIssuedOnlyByTheirRequest : Prop :=
  ∀ (i : Instr) (s t : State), i.port = .cmd → exec i s = .next t →
    s.call = none ∧
    match i with
    | .wren => ∃ u, s.seq = .running (.gateWren u)
    | .rsten => s.seq = .running .initRsten
    | .rstmem => s.seq = .running .initRstmem
    | .en4b => s.seq = .running .initEn4b ∨ s.seq = .running .enter4bEn4b
    | .rdsr => s.seq = .running .statusCmd
    | .pp3 a n => s.seq = .running .writeCmd ∧ s.stat.addr4 = false ∧ a = s.cursor.cur.setWidth 24 ∧ n = s.cursor.chunk
    | .pp4 a n => s.seq = .running .writeCmd ∧ s.stat.addr4 = true ∧ a = s.cursor.cur ∧ n = s.cursor.chunk
    | .qfr3 a n => s.seq = .running .readCmd ∧ s.stat.addr4 = false ∧ a = s.latch.a0.setWidth 24 ∧ n = s.latch.a1
    | .qfr4 a n => s.seq = .running .readCmd ∧ s.stat.addr4 = true ∧ a = s.latch.a0 ∧ n = s.latch.a1
    | .se3 a => s.seq = .running .eraseCmd ∧ s.stat.addr4 = false ∧ a = s.cursor.cur.setWidth 24
    | .se4 a => s.seq = .running .eraseCmd ∧ s.stat.addr4 = true ∧ a = s.cursor.cur
    | .ce => s.seq = .running .chipCmd
    | _ => False

/-! ### Steps -/

/-- A step runs the decoded instruction: a step in which the host writes the word of request `i` to REQ is exec of `i`, the access taken from the host
program; a step of the sequencer at an IssueCmd whose descriptor words decode to frame `i` is exec of `i`. The step adds only that the turn is used
up. The spec has no instruction fetch (R47): that exec of a request is its acceptance at the REQ write, and exec of a frame its IssueCmd at the
statement that issues it, is the model's choice (DESIGN CHOICE, log entries 12 and 27). -/
def Obligations.StepRunsTheDecodedInstruction : Prop :=
  (∀ (s : State) (w : Word) (i : Instr) (rest : List HostOp) (ts : List Turn),
    s.turns = .host :: ts → s.host = wr .req w :: rest → (∀ r, s.seq ≠ .faulted r) → decodeRequest w = .ok i →
    step s = exec i { s with turns := ts, host := rest }) ∧
  ∀ (s : State) (i j : Instr) (d : CmdDesc) (ts : List Turn),
    s.turns = .sequencer :: ts → s.frameDue = some i → frameDesc s.cfg i = some d → s.cfg.valid = true →
    decode s.cfg .cmd d.words = .ok j → step s = exec j { s with turns := ts }

/-- After a model fault no agent takes a further step and only block reset leaves it (R310): in every faulted state each agent's turn answers `fault`
with the cause, and only block reset gives a next state.
That a step of a quiescent agent answers `fault` is the model's form of "no further step" (DESIGN CHOICE, log entry 7); where no turn is scheduled
the host moves (log entry 4). -/
def Obligations.FaultIsSticky : Prop :=
  ∀ (s : State) (r : Fault), s.seq = .faulted r →
    (s.takeTurn.1 ≠ .blockReset → step s = .fault r) ∧ (s.takeTurn.1 = .blockReset → ∃ t, step s = .next t ∧ t.seq = .idle)

/-- Block reset puts every register of THE CORE at its reset value (R60), in every state, forgets the transport's memory-mapped configuration (R340),
and keeps the parameters and host memory; the state right after reset has the same values, its parameters are legal and SECTOR_SIZE and PAGE_SIZE are
the spec's.
That host memory is kept and the trace starts empty is the model's choice (DESIGN CHOICE, log entry 11). -/
def Obligations.ResetValues : Prop :=
  let atReset (t : State) : Prop :=
    t.stat.word = 0x00000000 ∧ t.seq = .idle ∧ t.stat.addr4 = false ∧ t.stat.mmap = false ∧ t.args = ⟨0, 0, 0⟩ ∧
    t.latch = ⟨0, 0, 0, 0⟩ ∧ t.cursor = ⟨0, 0, 0, 0⟩ ∧ t.cmdDesc = ⟨0, 0, 0⟩ ∧ t.pollDesc = ⟨0, 0⟩ ∧ t.pollClass = 0 ∧
    t.call = none ∧ t.window = none ∧ t.trace = [] ∧
    t.regValue .geoFlashSize = BitVec.ofNat 32 t.cfg.flashSize ∧ t.regValue .geoSectorSize = BitVec.ofNat 32 t.cfg.sectorSize ∧
    (0 < t.cfg.sectorSize → t.regValue .geoSectorCount = BitVec.ofNat 32 (t.cfg.flashSize / t.cfg.sectorSize)) ∧
    t.regValue .geoPageSize = BitVec.ofNat 32 t.cfg.pageSize ∧
    t.regValue .geoPageCount = BitVec.ofNat 32 (t.cfg.flashSize / t.cfg.pageSize)
  atReset State.reset ∧ State.reset.cfg.valid = true ∧ State.reset.regValue .geoSectorSize = 0x10000 ∧
  State.reset.regValue .geoPageSize = 0x100 ∧
  ∀ (s : State) (ts : List Turn), s.turns = .blockReset :: ts →
    ∃ t, step s = .next t ∧ atReset t ∧ t.cfg = s.cfg ∧ t.mem = s.mem

/-! ### The host's accesses -/

/-- R31 to R36 with R34's layout: an aligned 32-bit read gives the register's value, in every state that is not faulted, and changes nothing else. -/
def Obligations.RegisterReadValues : Prop :=
  ∀ (s : State) (off : Nat) (rest : List HostOp) (ts : List Turn),
    s.turns = .host :: ts → s.host = .regRead off 4 :: rest → (∀ r, s.seq ≠ .faulted r) →
    let t (v : Word) : State := { s with turns := ts, host := rest, trace := s.trace ++ [.regRead off v] }
    (off = 0x00 → step s = .next (t 0)) ∧ (off = 0x04 → step s = .next (t s.args.arg0)) ∧
    (off = 0x08 → step s = .next (t s.args.arg1)) ∧ (off = 0x0C → step s = .next (t s.args.arg2)) ∧
    (off = 0x10 → step s = .next (t
      (BitVec.ofNat 32 (s.stat.busy.toNat + 2 * s.stat.done.toNat + 16 * s.stat.result.bits.toNat + 256 * s.stat.addr4.toNat
        + 512 * s.stat.mmap.toNat + 65536 * s.stat.lastSr.toNat)))) ∧
    (off = 0x14 → step s = .next (t (BitVec.ofNat 32 s.cfg.flashSize))) ∧
    (off = 0x18 → step s = .next (t (BitVec.ofNat 32 s.cfg.sectorSize))) ∧
    (off = 0x1C → 0 < s.cfg.sectorSize → step s = .next (t (BitVec.ofNat 32 (s.cfg.flashSize / s.cfg.sectorSize)))) ∧
    (off = 0x20 → step s = .next (t (BitVec.ofNat 32 s.cfg.pageSize))) ∧
    (off = 0x24 → step s = .next (t (BitVec.ofNat 32 (s.cfg.flashSize / s.cfg.pageSize))))

/-- R31, R86: a register access that is no aligned 32-bit word, an unmapped offset, and a write to STAT or a GEO register are the fault
RegisterAccess; nothing but SEQ and the host's and the scheduler's lists changes.
That an access is aligned by its offset from REG_BASE is the model's choice (DESIGN CHOICE, log entry 18). -/
def Obligations.BadRegisterAccessFaults : Prop :=
  ∀ (s : State) (off width : Nat) (v : Word) (rest : List HostOp) (ts : List Turn),
    s.turns = .host :: ts → (∀ r, s.seq ≠ .faulted r) →
    (s.host = .regRead off width :: rest ∧ (width ≠ 4 ∨ off % 4 ≠ 0 ∨ 0x28 ≤ off) ∨
      s.host = .regWrite off width v :: rest ∧ (width ≠ 4 ∨ off % 4 ≠ 0 ∨ 0x10 ≤ off)) →
    step s = .next { s with turns := ts, host := rest, seq := .faulted .registerAccess }

/-- R33: a write to ARG0 to ARG2 stores the value at any time and changes no other register; the running request's operands stay. -/
def Obligations.ArgWritesStore : Prop :=
  ∀ (s : State) (v : Word) (rest : List HostOp) (ts : List Turn) (r : Reg),
    s.turns = .host :: ts → s.host = wr r v :: rest → (∀ f, s.seq ≠ .faulted f) →
    (r = .arg0 → step s = .next { s with turns := ts, host := rest, args := { s.args with arg0 := v } }) ∧
    (r = .arg1 → step s = .next { s with turns := ts, host := rest, args := { s.args with arg1 := v } }) ∧
    (r = .arg2 → step s = .next { s with turns := ts, host := rest, args := { s.args with arg2 := v } })

/-- R95: a translated window read returns `n` bytes, through the configured template with the address and length of the read, and changes nothing
else.
The bytes are free, one value for each flash byte of a period (R97, log entry 10). -/
def Obligations.WindowReadTranslated : Prop :=
  ∀ (s : State) (h : Word) (n : Nat) (rest : List HostOp) (ts : List Turn),
    s.turns = .host :: ts → s.host = .windowRead h n :: rest → (∀ f, s.seq ≠ .faulted f) → s.windowAgrees = true →
    s.stat.mmap = true → (n = 1 ∨ n = 2 ∨ n = 4) → h.toNat % n = 0 → s.cfg.mmBase.toNat ≤ h.toNat →
    h.toNat + n ≤ s.cfg.mmBase.toNat + s.cfg.flashSize →
    (s.stat.addr4 = false → h.toNat - s.cfg.mmBase.toNat + n - 1 < 2 ^ 24) →
    ∃ bytes, bytes.length = n ∧
      (∀ i, i < n → bytes[i]? = some (Config.windowByte s.period (h.toNat - s.cfg.mmBase.toNat + i))) ∧
      step s = .next
        { s with
          turns := ts, host := rest
          trace := s.trace ++ [.windowRead h
            (s.desc .qfr (BitVec.ofNat 32 (h.toNat - s.cfg.mmBase.toNat)) (BitVec.ofNat 32 n)) bytes] }

/-- R96 with R90: a window write, and a read with MMAP = 0, of another width, misaligned, outside the window, or of 2^24 and above in 3-byte mode, is
the fault WindowAccess.
That an access names itself as one of the window, and is aligned by its host address, is the model's choice (log entry 18). -/
def Obligations.WindowAccessFaults : Prop :=
  ∀ (s : State) (h : Word) (n : Nat) (rest : List HostOp) (ts : List Turn),
    s.turns = .host :: ts → (∀ f, s.seq ≠ .faulted f) →
    (s.host = .windowWrite h n :: rest ∨
      s.host = .windowRead h n :: rest ∧
        (s.stat.mmap = false ∨ (n ≠ 1 ∧ n ≠ 2 ∧ n ≠ 4) ∨ h.toNat % n ≠ 0 ∨ h.toNat < s.cfg.mmBase.toNat ∨
          s.cfg.mmBase.toNat + s.cfg.flashSize < h.toNat + n ∨
          s.stat.addr4 = false ∧ 2 ^ 24 ≤ h.toNat - s.cfg.mmBase.toNat + n - 1)) →
    step s = .next { s with turns := ts, host := rest, seq := .faulted .windowAccess }

/-- The `wait` statement (R135): it reads STAT, and the host goes on exactly when BUSY = 0.
One read a step is the model's choice (log entry 26). -/
def Obligations.WaitPollsStatus : Prop :=
  ∀ (s : State) (rest : List HostOp) (ts : List Turn),
    s.turns = .host :: ts → s.host = .wait :: rest → (∀ f, s.seq ≠ .faulted f) →
    step s = .next
      { s with
        turns := ts
        host := if s.stat.word.getLsbD 0 = false then rest else .wait :: rest
        trace := s.trace ++ [.regRead 0x10 s.stat.word] }

/-! ### Answers -/

/-- R302, R303, R213: a failing answer takes the request to its `finish` with the code of the failing call, and changes nothing but the call, the
trace and the position (a failed RxData of READ first goes through the loop over its destination bytes); and `finish` writes RESULT, BUSY, DONE and
SEQ in one step and nothing else. -/
def Obligations.FirstFailureEndsTheRequest : Prop :=
  (∀ (s : State) (p : Pos) (c : Call) (a : Answer) (rest : List Answer) (ts : List Turn),
    s.turns = .transport :: ts → s.seq = .running p → s.call = some c → s.callAt p = some c → s.transport = a :: rest →
    admits c a = true → (a = .fail ∨ ∃ ss, a = .noMatch ss) →
    step s = .next
      { s with
        turns := ts, call := none, transport := rest, trace := s.trace ++ [.answer a]
        seq := .running (if p = .readData ∧ 0 < s.latch.a1.toNat then .readAny 0 else .finish p.request (failureCode p)) }) ∧
  ∀ (s : State) (i : Instr) (c : ResultCode) (ts : List Turn),
    s.turns = .sequencer :: ts → s.seq = .running (.finish i c) → s.call = none →
    step s = .next { s with turns := ts, seq := .idle, stat := { s.stat with result := c, busy := false, done := true } }

/-- R198: after an auto-poll was answered, the request goes on, or comes to finish(OK), only if the answer was MATCH with a sample that meets the
poll. -/
def Obligations.NoSilentSuccess : Prop :=
  ∀ (s t : State) (p : Pos) (d : CmdDesc) (q : PollDesc) (c : PollClass) (ts : List Turn),
    s.turns = .transport :: ts → s.seq = .running p → s.call = some (.autoPoll d q c) →
    s.callAt p = some (.autoPoll d q c) → step s = .next t → t.call = none →
    (∃ r, t.seq = .running r ∧ ∀ i e, r = .finish i e → e = .ok) →
    ∃ pre b rest, s.transport = .matched (pre ++ [b]) :: rest ∧ sampleMatches b q = true

/-! ### Runs of one request, from the host's REQ write to its completion -/

/-- R216: INIT with eight successful answers makes the eight calls of the spec in order and ends with OK and ADDR4 = 1; just before `finish` the host
would read BUSY = 1 with ADDR4 = 1 (R47, R322).
The order of turns is the model's default (log entry 4). -/
def Obligations.InitRunSucceeds : Prop :=
  ∀ (s : State) (rest : List HostOp) (more : List Answer) (w b1 b2 b3 : List Byte),
    s.presents 1 rest ([.ok, .matched w, .ok, .matched b1, .ok, .matched b2, .ok, .matched b3] ++ more) →
    matchedSamples (welPoll s.cfg) w = true → matchedSamples (readyPoll s.cfg) b1 = true →
    matchedSamples (readyPoll s.cfg) b2 = true → matchedSamples (readyPoll s.cfg) b3 = true →
    ∃ u t, Host.Core.run Sys2Proof.core 19 s = .next u ∧ u.stat = ⟨true, false, s.stat.result, true, false, s.stat.lastSr⟩ ∧
      step u = .next t ∧ t.seq = .idle ∧ t.call = none ∧
      t.stat = ⟨false, true, .ok, true, false, s.stat.lastSr⟩ ∧ t.host = rest ∧ t.transport = more ∧ t.args = s.args ∧
      t.mem = s.mem ∧ t.cursor = s.cursor ∧ t.latch = ⟨1, s.args.arg0, s.args.arg1, s.args.arg2⟩ ∧
      t.trace = s.trace ++ exchange
        [(plainCall s.cfg.cmdWren, .ok), (welCall s.cfg, .matched w), (plainCall s.cfg.cmdRsten, .ok),
         (readyCall s.cfg .reset, .matched b1), (plainCall s.cfg.cmdRstmem, .ok), (readyCall s.cfg .reset, .matched b2),
         (plainCall s.cfg.cmdEn4b, .ok), (readyCall s.cfg .mode4b, .matched b3)]

/-- R213, R214: INIT that fails at its call k + 1 (k = 0 to 7, all earlier calls succeeding) ends with NOT_SUPPORTED after k + 1 calls; ADDR4 is
unchanged if it fails before the second ready wait succeeded (k < 6), else 0.
The order of turns is the model's default (log entry 4). -/
def Obligations.InitFailureAtEachCall : Prop :=
  ∀ (s : State) (rest : List HostOp) (good bad : List Answer) (more : List Answer) (k : Nat) (w b1 b2 b3 x y1 y2 y3 : List Byte),
    k < 8 → good = [.ok, .matched w, .ok, .matched b1, .ok, .matched b2, .ok, .matched b3] →
    bad = [.fail, .noMatch x, .fail, .noMatch y1, .fail, .noMatch y2, .fail, .noMatch y3] →
    matchedSamples (welPoll s.cfg) w = true → (∀ b ∈ [b1, b2, b3], matchedSamples (readyPoll s.cfg) b = true) →
    noMatchSamples (welPoll s.cfg) x = true → (∀ y ∈ [y1, y2, y3], noMatchSamples (readyPoll s.cfg) y = true) →
    s.presents 1 rest (good.take k ++ (bad.drop k).take 1 ++ more) →
    ∃ t, Host.Core.run Sys2Proof.core (2 * k + if k < 6 then 4 else 5) s = .next t ∧ t.seq = .idle ∧
      t.stat = ⟨false, true, .notSupported, if k < 6 then s.stat.addr4 else false, false, s.stat.lastSr⟩ ∧
      t.transport = more ∧ (busEvents t.trace).length = (busEvents s.trace).length + 2 * (k + 1)

/-- R220: ENTER_4BYTE issues EN4B and waits, whatever ADDR4 was, and sets ADDR4 only on OK; just before `finish` the host would read BUSY = 1 with
ADDR4 = 1 (R47, R322).
The order of turns is the model's default (log entry 4). -/
def Obligations.Enter4ByteRuns : Prop :=
  ∀ (s : State) (rest : List HostOp) (more : List Answer) (b y : List Byte), matchedSamples (readyPoll s.cfg) b = true →
    noMatchSamples (readyPoll s.cfg) y = true →
    (s.presents 9 rest (.ok :: .matched b :: more) →
      ∃ u t, Host.Core.run Sys2Proof.core 6 s = .next u ∧ u.stat = ⟨true, false, s.stat.result, true, false, s.stat.lastSr⟩ ∧
        step u = .next t ∧ t.seq = .idle ∧ t.stat = ⟨false, true, .ok, true, false, s.stat.lastSr⟩ ∧
        t.host = rest ∧ t.mem = s.mem ∧ t.cursor = s.cursor ∧
        t.trace = s.trace ++ exchange [(plainCall s.cfg.cmdEn4b, .ok), (readyCall s.cfg .mode4b, .matched b)]) ∧
    (s.presents 9 rest (.fail :: more) →
      ∃ t, Host.Core.run Sys2Proof.core 4 s = .next t ∧ t.seq = .idle ∧
        t.stat = ⟨false, true, .transportError, s.stat.addr4, false, s.stat.lastSr⟩ ∧
        t.trace = s.trace ++ exchange [(plainCall s.cfg.cmdEn4b, .fail)]) ∧
    (s.presents 9 rest (.ok :: .noMatch y :: more) →
      ∃ t, Host.Core.run Sys2Proof.core 6 s = .next t ∧ t.seq = .idle ∧
        t.stat = ⟨false, true, .timeoutError, s.stat.addr4, false, s.stat.lastSr⟩ ∧
        t.trace = s.trace ++ exchange [(plainCall s.cfg.cmdEn4b, .ok), (readyCall s.cfg .mode4b, .noMatch y)])

/-- R226, R227: ENTER_MEMORY_MAPPED makes one MemMapCfg call with Desc(QFR, 0, 0) for the mode; MMAP is set on OK only, ADDR4 never; just before
`finish` the host would read BUSY = 1 with MMAP = 1 (R47, R322).
The order of turns is the model's default (log entry 4). -/
def Obligations.EnterMemoryMappedRuns : Prop :=
  ∀ (s : State) (rest : List HostOp) (more : List Answer),
    let same (a : Answer) (t : State) : Prop :=
      t.seq = .idle ∧ t.host = rest ∧ t.mem = s.mem ∧
      t.trace = s.trace ++ exchange [(.memMapCfg (s.desc .qfr 0 0) s.cfg.mmTimeoutCfg, a)]
    (s.presents 8 rest (.ok :: more) →
      ∃ u t, Host.Core.run Sys2Proof.core 4 s = .next u ∧ u.stat = ⟨true, false, s.stat.result, s.stat.addr4, true, s.stat.lastSr⟩ ∧
        step u = .next t ∧ same .ok t ∧ t.stat = ⟨false, true, .ok, s.stat.addr4, true, s.stat.lastSr⟩ ∧
        t.window = some (s.desc .qfr 0 0)) ∧
    (s.presents 8 rest (.fail :: more) →
      ∃ t, Host.Core.run Sys2Proof.core 4 s = .next t ∧ same .fail t ∧
        t.stat = ⟨false, true, .transportError, s.stat.addr4, false, s.stat.lastSr⟩ ∧ t.window = s.window)

/-- R241 on success: one QFR frame for the whole range and one RxData; byte i of the answer ends at host address L_A2 + i, every other byte of host
memory stays; no cursor, mode or LAST_SR is written (R243).
The order of turns is the model's default (log entry 4). -/
def Obligations.ReadRunStoresTheBytes : Prop :=
  ∀ (s : State) (rest : List HostOp) (more : List Answer) (bytes : List Byte),
    s.presents 2 rest (.ok :: .data bytes :: more) → s.transferArgsOk → bytes.length = s.args.arg1.toNat → s.mem.wf = true →
    ∃ t, Host.Core.run Sys2Proof.core (6 + s.args.arg1.toNat) s = .next t ∧ t.seq = .idle ∧
      t.stat = ⟨false, true, .ok, s.stat.addr4, false, s.stat.lastSr⟩ ∧ t.cursor = s.cursor ∧ t.host = rest ∧
      busEvents t.trace = busEvents s.trace ++ exchange
        [(.issueCmd (s.desc .qfr s.args.arg0 s.args.arg1), .ok), (.rxData s.args.arg1.toNat, .data bytes)] ∧
      (∀ i, i < bytes.length → bytes[i]? = some (t.mem.read (s.args.arg2.toNat + i))) ∧
      ∀ x, x < s.args.arg2.toNat ∨ s.args.arg2.toNat + s.args.arg1.toNat ≤ x → t.mem.read x = s.mem.read x

/-- R241 on failure: a failed IssueCmd leaves host memory as it was; after a failed RxData each destination byte is a free value and every other byte
stays; both end with TRANSPORT_ERROR.
The order of turns is the model's default (log entry 4), the free bytes its own (log entry 9). -/
def Obligations.ReadRunFailures : Prop :=
  ∀ (s : State) (rest : List HostOp) (more : List Answer), s.transferArgsOk → s.mem.wf = true →
    (s.presents 2 rest (.fail :: more) →
      ∃ t, Host.Core.run Sys2Proof.core 4 s = .next t ∧ t.seq = .idle ∧
        t.stat = ⟨false, true, .transportError, s.stat.addr4, false, s.stat.lastSr⟩ ∧ t.mem = s.mem) ∧
    (s.presents 2 rest (.ok :: .fail :: more) →
      ∃ t, Host.Core.run Sys2Proof.core (6 + s.args.arg1.toNat) s = .next t ∧ t.seq = .idle ∧
        t.stat = ⟨false, true, .transportError, s.stat.addr4, false, s.stat.lastSr⟩ ∧
        (∀ i, i < s.args.arg1.toNat → t.mem.read (s.args.arg2.toNat + i) = Config.freeByte (s.fresh + i)) ∧
        ∀ x, x < s.args.arg2.toNat ∨ s.args.arg2.toNat + s.args.arg1.toNat ≤ x → t.mem.read x = s.mem.read x)

/-- R251, R255, R258, R361: a WRITE whose every call succeeds, whatever samples its polls took, makes for each chunk of the closed form, in order,
the five calls of R250 (gate, PP frame, TxData of the chunk's source bytes, ready wait of class PROGRAM) and no other call; so it issues WREN and one
PP frame for each chunk and no other frame, and sends byte i of the buffer for flash address L_A0 + i. It ends with OK, CUR = ENDA = L_A0 + L_A1, OFF
= L_A1 and CHUNK = 0; host memory stays.
The order of turns is the model's default (log entry 4). -/
def Obligations.WriteRunIssuesTheChunks : Prop :=
  ∀ (s : State) (rest : List HostOp) (more : List Answer) (w b : Nat → List Byte),
    let P := s.cfg.pageSize
    let a := s.args.arg0.toNat
    let n := s.args.arg1.toNat
    let count := chunkCount P a n
    let calls := (List.range count).flatMap fun k => s.chunkCalls (chunkAt P a n k) (w k) (b k)
    s.cfg.valid = true → s.transferArgsOk → samplesMatch (welPoll s.cfg) count w → samplesMatch (readyPoll s.cfg) count b →
    s.presents 3 rest (calls.map Prod.snd ++ more) →
    ∃ t, Host.Core.run Sys2Proof.core (6 + 13 * count + n) s = .next t ∧
      t.seq = .idle ∧ t.stat = ⟨false, true, .ok, s.stat.addr4, false, s.stat.lastSr⟩ ∧ t.host = rest ∧ t.transport = more ∧
      t.cursor = ⟨s.args.arg0 + s.args.arg1, s.args.arg0 + s.args.arg1, 0, s.args.arg1⟩ ∧ t.mem = s.mem ∧
      busEvents t.trace = busEvents s.trace ++ exchange calls ∧
      frames t.trace = frames s.trace ++ (chunks P a n).flatMap
        (fun c => [plainDesc s.cfg.cmdWren, s.desc .pp (BitVec.ofNat 32 c.1) (BitVec.ofNat 32 c.2)]) ∧
      sentBytes t.trace = sentBytes s.trace ++ s.bytesAt s.args.arg2 n ∧
      (busEvents t.trace).length = (busEvents s.trace).length + 10 * count

/-- R273, R274, R275: an ERASE_SECTOR_RANGE whose every call succeeds, whatever samples its polls took, makes for each sector from the rounded start
to the sector of the end, in order, the four calls of R272 (gate, SE frame, ready wait of class SECTOR) and no other call; so it issues WREN and one
SE frame for each sector and no other frame, and makes 8 bus events a sector. It ends with OK.
The order of turns is the model's default (log entry 4), the loop test that of spec/90 C3 (log entry 25). -/
def Obligations.EraseRunIssuesTheSectors : Prop :=
  ∀ (s : State) (rest : List HostOp) (more : List Answer) (w b : Nat → List Byte),
    let S := s.cfg.sectorSize
    let a := s.args.arg0.toNat
    let count := eraseCount S a s.args.arg1.toNat
    let calls := (List.range count).flatMap fun k => s.sectorCalls (eraseAddrAt S a k) (w k) (b k)
    s.cfg.valid = true → s.eraseArgsOk → samplesMatch (welPoll s.cfg) count w → samplesMatch (readyPoll s.cfg) count b →
    s.presents 4 rest (calls.map Prod.snd ++ more) →
    ∃ t, Host.Core.run Sys2Proof.core (4 + 9 * count) s = .next t ∧
      t.seq = .idle ∧ t.stat = ⟨false, true, .ok, s.stat.addr4, false, s.stat.lastSr⟩ ∧ t.host = rest ∧ t.transport = more ∧
      t.cursor.enda = s.args.arg1 ∧ t.cursor.cur.toNat = sectorBase S a + count * S ∧
      t.cursor.chunk = s.cursor.chunk ∧ t.cursor.off = s.cursor.off ∧ t.mem = s.mem ∧
      busEvents t.trace = busEvents s.trace ++ exchange calls ∧
      frames t.trace = frames s.trace ++ (eraseAddrs S a s.args.arg1.toNat).flatMap
        (fun x => [plainDesc s.cfg.cmdWren, s.desc .se (BitVec.ofNat 32 x) 0]) ∧
      (busEvents t.trace).length = (busEvents s.trace).length + 8 * count

/-- R282: ERASE_CHIP makes one gate, one CE frame and one poll of class CHIP, and ends with OK when all succeed and with TIMEOUT_ERROR when the CHIP
poll answers NOMATCH.
The order of turns is the model's default (log entry 4). -/
def Obligations.EraseChipRuns : Prop :=
  ∀ (s : State) (rest : List HostOp) (more : List Answer) (w b y : List Byte), matchedSamples (welPoll s.cfg) w = true →
    matchedSamples (readyPoll s.cfg) b = true → noMatchSamples (readyPoll s.cfg) y = true →
    (s.presents 5 rest ([.ok, .matched w, .ok, .matched b] ++ more) →
      ∃ t, Host.Core.run Sys2Proof.core 10 s = .next t ∧ t.seq = .idle ∧
        t.stat = ⟨false, true, .ok, s.stat.addr4, false, s.stat.lastSr⟩ ∧ t.mem = s.mem ∧ t.cursor = s.cursor ∧
        t.trace = s.trace ++ exchange
          [(plainCall s.cfg.cmdWren, .ok), (welCall s.cfg, .matched w), (plainCall s.cfg.cmdCe, .ok),
           (readyCall s.cfg .chip, .matched b)]) ∧
    (s.presents 5 rest ([.ok, .matched w, .ok, .noMatch y] ++ more) →
      ∃ t, Host.Core.run Sys2Proof.core 10 s = .next t ∧ t.seq = .idle ∧
        t.stat = ⟨false, true, .timeoutError, s.stat.addr4, false, s.stat.lastSr⟩)

/-- R290 to R292: GET_STATUS makes one RDSR frame and RxData(1), keeps the byte in LAST_SR, and returns BUSY iff a bit of BUSY_MASK is set in it;
just before `finish` the host would read BUSY = 1 with the new LAST_SR (R47, R322).
The order of turns is the model's default (log entry 4). -/
def Obligations.GetStatusRuns : Prop :=
  ∀ (s : State) (rest : List HostOp) (more : List Answer) (b : Byte), s.presents 6 rest (.ok :: .data [b] :: more) →
    ∃ u t, Host.Core.run Sys2Proof.core 6 s = .next u ∧ u.stat = ⟨true, false, s.stat.result, s.stat.addr4, false, b⟩ ∧
      step u = .next t ∧ t.seq = .idle ∧
      t.stat = ⟨false, true, if b &&& s.cfg.busyMask = 0 then .ok else .busy, s.stat.addr4, false, b⟩ ∧ t.mem = s.mem ∧
      t.cursor = s.cursor ∧ t.args = s.args ∧
      t.trace = s.trace ++ exchange [(.issueCmd (statusDesc s.cfg.cmdRdsr), .ok), (.rxData 1, .data [b])]

/-- R295: GET_GEOMETRY makes no call and returns OK, in MM mode too; the modes and LAST_SR stay.
The order of turns is the model's default (log entry 4). -/
def Obligations.GetGeometryRuns : Prop :=
  ∀ (s : State) (rest : List HostOp),
    s.turns = [] → s.host = wr .req 7 :: rest → s.seq = .idle → s.call = none → s.stat.busy = false →
    Host.Core.run Sys2Proof.core 2 s = .next
      { s with
        host := rest
        latch := ⟨7, s.args.arg0, s.args.arg1, s.args.arg2⟩
        stat := { s.stat with result := .ok, busy := false, done := true } }

/-! ### The splitter's counts -/

/-- R255: for every page size, the number of chunks is N + 1, N the page boundaries strictly inside the range; each chunk is at most a page and lies
in one page; the chunks are adjacent and cover the range. -/
def Obligations.ChunkCountIsBoundariesPlusOne : Prop :=
  ∀ P a n : Nat, 0 < P →
    chunkCount P a n = boundariesInside P a n + 1 ∧ (chunks P a n).length = chunkCount P a n ∧
    (∀ c ∈ chunks P a n, c.2 ≤ P ∧ inOnePage P c.1 c.2 = true) ∧
    (∀ k, k + 1 < chunkCount P a n → (chunkAt P a n (k + 1)).1 = (chunkAt P a n k).1 + (chunkAt P a n k).2) ∧
    (chunkAt P a n (chunkCount P a n - 1)).1 + (chunkAt P a n (chunkCount P a n - 1)).2 = a + n

/-- R275: for every sector size, the number of sector erases is the source's ⌈(end - rs + 1) / S⌉, and their addresses are the sector boundaries
whose sectors hold a byte of the range. -/
def Obligations.EraseCountIsTheFormula : Prop :=
  ∀ S a e : Nat, 0 < S → a ≤ e →
    eraseCount S a e = (e - sectorBase S a + 1 + S - 1) / S ∧ (eraseAddrs S a e).length = eraseCount S a e ∧
    ∀ x, x ∈ eraseAddrs S a e ↔ x % S = 0 ∧ ∃ y, a ≤ y ∧ y ≤ e ∧ sectorBase S y = x

/-! ### Invariants and whole-machine rules -/

/-- Every step keeps the agreement of flags, position, latched opcode, the code a request finishes with, and transport configuration (R34, R35, R44,
R45, R231, R301). -/
def Obligations.ControlInvKept : Prop :=
  ∀ s t : State, s.controlInv = true → step s = .next t → t.controlInv = true

/-- Every step keeps the operand invariant: what acceptance checked, the registers each program has set so far, the splitter's state in the loops,
and that the bytes a WRITE has read are those of its source buffer (R250, R252, R272, R320).
That the host cannot touch the buffer rests on the refusal of log entry 17. -/
def Obligations.OperandInvKept : Prop :=
  ∀ s t : State, s.controlInv = true → s.callAgrees = true → s.operandInv = true → step s = .next t → t.operandInv = true

/-- Every step keeps: an outstanding call is the call of the request's position, with its exact arguments (R47, R48, R190). -/
def Obligations.CallAgreementKept : Prop :=
  ∀ s t : State, s.controlInv = true → s.callAgrees = true → step s = .next t → t.callAgrees = true

/-- The three invariants hold right after reset. -/
def Obligations.InvariantsHoldAtReset : Prop :=
  State.reset.controlInv = true ∧ State.reset.operandInv = true ∧ State.reset.callAgrees = true ∧ State.reset.gateTraceOk ∧
  State.reset.mem.wf = true

/-- Every step keeps the canonical form of host memory.
The byte an unlisted address reads as is the model's choice (log entry 8). -/
def Obligations.MemoryFormKept : Prop :=
  ∀ s t : State, s.mem.wf = true → step s = .next t → t.mem.wf = true

/-- R182 as an invariant: from the gate to the mutating frame, what passed between THE CORE and the transport ends with the gate's own calls,
answered with success. -/
def Obligations.GateTraceKept : Prop :=
  ∀ s t : State, s.controlInv = true → s.callAgrees = true → s.gateTraceOk → step s = .next t → t.gateTraceOk

/-- R182: a mutating frame is issued only as the next call after a gate that returned OK in the same request. -/
def Obligations.MutatingFrameFollowsTheGate : Prop :=
  ∀ (s t : State) (i : Instr), s.gateTraceOk → i.mutating = true → exec i s = .next t →
    gateDone s.cfg s.trace ∧ ∃ d, frameDesc s.cfg i = some d ∧ busEvents t.trace = busEvents s.trace ++ [.call (.issueCmd d)]

/-- R153, R254, R273: every frame the running request issues is well-formed: inside the flash, encodable in the mode, a program frame inside one
page, a sector erase at a sector boundary. -/
def Obligations.FramesAreWellFormed : Prop :=
  ∀ (s : State) (i : Instr), s.operandInv = true → s.frameDue = some i → i.wf s.cfg = true

/-- R48, R50: while a call is outstanding a step of any agent leaves the call, CMD_DESC, POLL_DESC and POLL_CLASS as they are, or ends the call; no
second call is placed; the sequencer makes no other step: its turn changes nothing. -/
def Obligations.OutstandingCallIsStable : Prop :=
  ∀ (s t : State) (c : Call), s.controlInv = true → s.callAgrees = true → s.call = some c → step s = .next t →
    (∀ ts, s.turns = .sequencer :: ts → t = { s with turns := ts }) ∧
    (t.call = none ∨ t.call = some c ∧ t.cmdDesc = s.cmdDesc ∧ t.pollDesc = s.pollDesc ∧ t.pollClass = s.pollClass ∧ t.seq = s.seq ∨
    ∃ r, t.seq = .faulted r ∧ t.call = some c ∧ t.cmdDesc = s.cmdDesc)

/-- R301: a request that completes in a step returns only a code of its row. -/
def Obligations.ResultCodesByRequest : Prop :=
  ∀ (s t : State) (p : Pos), s.controlInv = true → s.seq = .running p → s.takeTurn.1 ≠ .blockReset → step s = .next t →
    t.seq = .idle →
    t.stat.done = true ∧ t.stat.busy = false ∧ mayReturn p.request t.stat.result = true

/-- R37, R291, R36: no step but those of INIT, ENTER_4BYTE and ENTER_MEMORY_MAPPED and block reset changes ADDR4 or MMAP, only GET_STATUS and block
reset change LAST_SR, and no step changes the parameters. -/
def Obligations.ModeChangesOnlyByModeRequests : Prop :=
  ∀ s t : State, step s = .next t →
    t.cfg = s.cfg ∧
    (s.takeTurn.1 ≠ .blockReset →
      (t.stat.addr4 ≠ s.stat.addr4 → ∃ p, s.seq = .running p ∧ (p.request = .init ∨ p.request = .enter4b)) ∧
      (t.stat.mmap ≠ s.stat.mmap → ∃ p, s.seq = .running p ∧ p.request = .enterMm ∧ t.stat.mmap = true) ∧
      (t.stat.lastSr ≠ s.stat.lastSr → ∃ p, s.seq = .running p ∧ p.request = .getStatus))

/-- R231, R103: while MMAP = 1 no step places a call, and only block reset leaves memory-mapped mode (R232). -/
def Obligations.MemoryMappedModeIsQuiet : Prop :=
  ∀ s t : State, s.controlInv = true → s.stat.mmap = true → step s = .next t → s.takeTurn.1 ≠ .blockReset →
    t.stat.mmap = true ∧ t.stat.addr4 = s.stat.addr4 ∧ t.call = none ∧ busEvents t.trace = busEvents s.trace

/-- R17, R340: no step of an agent takes an event back, and block reset starts a new trace.
That the trace is empty after block reset is the model's choice (DESIGN CHOICE, log entry 11). -/
def Obligations.TraceOnlyGrows : Prop :=
  ∀ s t : State, step s = .next t →
    (s.takeTurn.1 ≠ .blockReset → ∃ es, t.trace = s.trace ++ es) ∧ (s.takeTurn.1 = .blockReset → t.trace = [])

/-- R322, R45: what the host does while a request runs changes neither the request's position, call, latched operands, cursors nor STAT. -/
def Obligations.HostCannotDisturbARunningRequest : Prop :=
  ∀ (s t : State) (p : Pos) (ts : List Turn), s.turns = .host :: ts → s.seq = .running p → s.stat.busy = true → step s = .next t →
    (t.seq = .running p ∨ ∃ r, t.seq = .faulted r) ∧ t.call = s.call ∧ t.latch = s.latch ∧ t.cursor = s.cursor ∧ t.stat = s.stat ∧
    t.cmdDesc = s.cmdDesc ∧ busEvents t.trace = busEvents s.trace

/-- R332, R353: the host has no move on a byte of the buffer of a running READ or WRITE, neither a write nor a read (a refusal). Its other byte
accesses go by address: in the register block they are the fault RegisterAccess (R86), in the window a store is WindowAccess and a load a window read
of one byte (R95, R96), elsewhere a store changes that byte of host memory and no other, and a load records the byte it holds and changes nothing
else. The refusal is the model's form of "no move" (log entry 17). -/
def Obligations.RunningBufferIsTheCores : Prop :=
  ∀ (s : State) (a : Word) (b : Byte) (rest : List HostOp) (ts : List Turn),
    s.turns = .host :: ts → (∀ f, s.seq ≠ .faulted f) → s.mem.wf = true →
    let inBlock := s.cfg.regBase.toNat ≤ a.toNat ∧ a.toNat < s.cfg.regBase.toNat + 0x28
    let inWindow := s.cfg.mmBase.toNat ≤ a.toNat ∧ a.toNat < s.cfg.mmBase.toNat + s.cfg.flashSize
    let held := (∃ p, s.seq = .running p) ∧ (s.latch.op = 2 ∨ s.latch.op = 3) ∧ s.latch.a2.toNat ≤ a.toNat ∧
      a.toNat < s.latch.a2.toNat + s.latch.a1.toNat
    let faults (f : Fault) : Prop := step s = .next { s with turns := ts, host := rest, seq := .faulted f }
    (s.host = .store a b :: rest →
      (inBlock → faults .registerAccess) ∧ (¬ inBlock → inWindow → faults .windowAccess) ∧
      (¬ inBlock → ¬ inWindow → held → step s = .refused .hostTouchesBuffer) ∧
      (¬ inBlock → ¬ inWindow → ¬ held →
        ∃ t, step s = .next t ∧ t.mem.read a.toNat = b ∧ (∀ x, x ≠ a.toNat → t.mem.read x = s.mem.read x) ∧
          t = { s with turns := ts, host := rest, mem := t.mem })) ∧
    (s.host = .load a :: rest →
      (inBlock → faults .registerAccess) ∧ (¬ inBlock → inWindow → step s = step { s with host := .windowRead a 1 :: rest }) ∧
      (¬ inBlock → ¬ inWindow → held → step s = .refused .hostTouchesBuffer) ∧
      (¬ inBlock → ¬ inWindow → ¬ held →
        step s = .next { s with turns := ts, host := rest, trace := s.trace ++ [.hostLoad a (s.mem.read a.toNat)] }))

/-- R50, R51, R122: placing an auto-poll writes CMD_DESC with RDSR's words, POLL_DESC with the poll's words and POLL_CLASS with the class of the
wait: WE 0 at the gate, RESET 1, MODE4B 2, PROGRAM 3, SECTOR 4 and CHIP 5 at the ready waits; the call is outstanding and in the trace, and nothing
else changes. -/
def Obligations.PollCallsWriteTheirRegisters : Prop :=
  ∀ (s : State) (p : Pos) (ts : List Turn), s.turns = .sequencer :: ts → s.seq = .running p → s.call = none →
    let t (pw0 pw1 : Word) (cls : BitVec 3) (c : Call) : State :=
      { s with
        turns := ts
        cmdDesc := ⟨0x00000800 ||| s.cfg.cmdRdsr.setWidth 32, 0, 1⟩
        pollDesc := ⟨s.cfg.pollInterval.setWidth 32 <<< 16 ||| pw0 ||| s.cfg.cmdRdsr.setWidth 32, pw1⟩
        pollClass := cls, call := some c, trace := s.trace ++ [.call c] }
    let ready (cls : BitVec 3) (k : PollClass) : State := t 0x0300 (s.cfg.busyMask.setWidth 32) cls (readyCall s.cfg k)
    ((∃ u, p = .gateWel u) → step s = .next (t 0x0200 (s.cfg.welMask.setWidth 32) 0 (welCall s.cfg))) ∧
    (p = .initRstenReady ∨ p = .initRstmemReady → step s = .next (ready 1 .reset)) ∧
    (p = .initEn4bReady ∨ p = .enter4bReady → step s = .next (ready 2 .mode4b)) ∧
    (p = .writeReady → step s = .next (ready 3 .program)) ∧ (p = .eraseReady → step s = .next (ready 4 .sector)) ∧
    (p = .chipReady → step s = .next (ready 5 .chip))
end

