-- ==== Sys2Proof/Laws/State.lean ====
section
/-! SUPPORT. One lemma for each field of State and each update of the machine, true by unfolding, so that no proof unfolds a record
update. -/

namespace Sys2Proof.Machine

section
variable (s : State)

@[simp] theorem State.log_cfg (e : Event) : (s.log e).cfg = s.cfg := rfl
@[simp] theorem State.log_args (e : Event) : (s.log e).args = s.args := rfl
@[simp] theorem State.log_stat (e : Event) : (s.log e).stat = s.stat := rfl
@[simp] theorem State.log_seq (e : Event) : (s.log e).seq = s.seq := rfl
@[simp] theorem State.log_call (e : Event) : (s.log e).call = s.call := rfl
@[simp] theorem State.log_latch (e : Event) : (s.log e).latch = s.latch := rfl
@[simp] theorem State.log_cursor (e : Event) : (s.log e).cursor = s.cursor := rfl
@[simp] theorem State.log_cmdDesc (e : Event) : (s.log e).cmdDesc = s.cmdDesc := rfl
@[simp] theorem State.log_pollDesc (e : Event) : (s.log e).pollDesc = s.pollDesc := rfl
@[simp] theorem State.log_pollClass (e : Event) : (s.log e).pollClass = s.pollClass := rfl
@[simp] theorem State.log_mem (e : Event) : (s.log e).mem = s.mem := rfl
@[simp] theorem State.log_window (e : Event) : (s.log e).window = s.window := rfl
@[simp] theorem State.log_trace (e : Event) : (s.log e).trace = s.trace ++ [e] := rfl
@[simp] theorem State.log_host (e : Event) : (s.log e).host = s.host := rfl
@[simp] theorem State.log_transport (e : Event) : (s.log e).transport = s.transport := rfl
@[simp] theorem State.log_turns (e : Event) : (s.log e).turns = s.turns := rfl
@[simp] theorem State.log_fresh (e : Event) : (s.log e).fresh = s.fresh := rfl
@[simp] theorem State.log_period (e : Event) : (s.log e).period = s.period := rfl

@[simp] theorem State.memWrite_cfg (a : Word) (b : Byte) : (s.memWrite a b).cfg = s.cfg := rfl
@[simp] theorem State.memWrite_args (a : Word) (b : Byte) : (s.memWrite a b).args = s.args := rfl
@[simp] theorem State.memWrite_stat (a : Word) (b : Byte) : (s.memWrite a b).stat = s.stat := rfl
@[simp] theorem State.memWrite_seq (a : Word) (b : Byte) : (s.memWrite a b).seq = s.seq := rfl
@[simp] theorem State.memWrite_call (a : Word) (b : Byte) : (s.memWrite a b).call = s.call := rfl
@[simp] theorem State.memWrite_latch (a : Word) (b : Byte) : (s.memWrite a b).latch = s.latch := rfl
@[simp] theorem State.memWrite_cursor (a : Word) (b : Byte) : (s.memWrite a b).cursor = s.cursor := rfl
@[simp] theorem State.memWrite_cmdDesc (a : Word) (b : Byte) : (s.memWrite a b).cmdDesc = s.cmdDesc := rfl
@[simp] theorem State.memWrite_pollDesc (a : Word) (b : Byte) : (s.memWrite a b).pollDesc = s.pollDesc := rfl
@[simp] theorem State.memWrite_pollClass (a : Word) (b : Byte) : (s.memWrite a b).pollClass = s.pollClass := rfl
@[simp] theorem State.memWrite_mem (a : Word) (b : Byte) : (s.memWrite a b).mem = s.mem.write a.toNat b := rfl
@[simp] theorem State.memWrite_window (a : Word) (b : Byte) : (s.memWrite a b).window = s.window := rfl
@[simp] theorem State.memWrite_trace (a : Word) (b : Byte) : (s.memWrite a b).trace = s.trace ++ [.memWrite a b] := rfl
@[simp] theorem State.memWrite_host (a : Word) (b : Byte) : (s.memWrite a b).host = s.host := rfl
@[simp] theorem State.memWrite_transport (a : Word) (b : Byte) : (s.memWrite a b).transport = s.transport := rfl
@[simp] theorem State.memWrite_turns (a : Word) (b : Byte) : (s.memWrite a b).turns = s.turns := rfl
@[simp] theorem State.memWrite_fresh (a : Word) (b : Byte) : (s.memWrite a b).fresh = s.fresh := rfl
@[simp] theorem State.memWrite_period (a : Word) (b : Byte) : (s.memWrite a b).period = s.period := rfl

@[simp] theorem State.goto_cfg (p : Pos) : (s.goto p).cfg = s.cfg := rfl
@[simp] theorem State.goto_args (p : Pos) : (s.goto p).args = s.args := rfl
@[simp] theorem State.goto_stat (p : Pos) : (s.goto p).stat = s.stat := rfl
@[simp] theorem State.goto_seq (p : Pos) : (s.goto p).seq = .running p := rfl
@[simp] theorem State.goto_call (p : Pos) : (s.goto p).call = s.call := rfl
@[simp] theorem State.goto_latch (p : Pos) : (s.goto p).latch = s.latch := rfl
@[simp] theorem State.goto_cursor (p : Pos) : (s.goto p).cursor = s.cursor := rfl
@[simp] theorem State.goto_cmdDesc (p : Pos) : (s.goto p).cmdDesc = s.cmdDesc := rfl
@[simp] theorem State.goto_pollDesc (p : Pos) : (s.goto p).pollDesc = s.pollDesc := rfl
@[simp] theorem State.goto_pollClass (p : Pos) : (s.goto p).pollClass = s.pollClass := rfl
@[simp] theorem State.goto_mem (p : Pos) : (s.goto p).mem = s.mem := rfl
@[simp] theorem State.goto_window (p : Pos) : (s.goto p).window = s.window := rfl
@[simp] theorem State.goto_trace (p : Pos) : (s.goto p).trace = s.trace := rfl
@[simp] theorem State.goto_host (p : Pos) : (s.goto p).host = s.host := rfl
@[simp] theorem State.goto_transport (p : Pos) : (s.goto p).transport = s.transport := rfl
@[simp] theorem State.goto_turns (p : Pos) : (s.goto p).turns = s.turns := rfl
@[simp] theorem State.goto_fresh (p : Pos) : (s.goto p).fresh = s.fresh := rfl
@[simp] theorem State.goto_period (p : Pos) : (s.goto p).period = s.period := rfl

@[simp] theorem State.finish_cfg (c : ResultCode) : (s.finish c).cfg = s.cfg := rfl
@[simp] theorem State.finish_args (c : ResultCode) : (s.finish c).args = s.args := rfl
@[simp] theorem State.finish_stat (c : ResultCode) : (s.finish c).stat = s.stat.finished c := rfl
@[simp] theorem State.finish_seq (c : ResultCode) : (s.finish c).seq = .idle := rfl
@[simp] theorem State.finish_call (c : ResultCode) : (s.finish c).call = s.call := rfl
@[simp] theorem State.finish_latch (c : ResultCode) : (s.finish c).latch = s.latch := rfl
@[simp] theorem State.finish_cursor (c : ResultCode) : (s.finish c).cursor = s.cursor := rfl
@[simp] theorem State.finish_cmdDesc (c : ResultCode) : (s.finish c).cmdDesc = s.cmdDesc := rfl
@[simp] theorem State.finish_pollDesc (c : ResultCode) : (s.finish c).pollDesc = s.pollDesc := rfl
@[simp] theorem State.finish_pollClass (c : ResultCode) : (s.finish c).pollClass = s.pollClass := rfl
@[simp] theorem State.finish_mem (c : ResultCode) : (s.finish c).mem = s.mem := rfl
@[simp] theorem State.finish_window (c : ResultCode) : (s.finish c).window = s.window := rfl
@[simp] theorem State.finish_trace (c : ResultCode) : (s.finish c).trace = s.trace := rfl
@[simp] theorem State.finish_host (c : ResultCode) : (s.finish c).host = s.host := rfl
@[simp] theorem State.finish_transport (c : ResultCode) : (s.finish c).transport = s.transport := rfl
@[simp] theorem State.finish_turns (c : ResultCode) : (s.finish c).turns = s.turns := rfl
@[simp] theorem State.finish_fresh (c : ResultCode) : (s.finish c).fresh = s.fresh := rfl
@[simp] theorem State.finish_period (c : ResultCode) : (s.finish c).period = s.period := rfl

@[simp] theorem State.placeCall_cfg (c : Call) : (s.placeCall c).cfg = s.cfg := rfl
@[simp] theorem State.placeCall_args (c : Call) : (s.placeCall c).args = s.args := rfl
@[simp] theorem State.placeCall_stat (c : Call) : (s.placeCall c).stat = s.stat := rfl
@[simp] theorem State.placeCall_seq (c : Call) : (s.placeCall c).seq = s.seq := rfl
@[simp] theorem State.placeCall_call (c : Call) : (s.placeCall c).call = some c := rfl
@[simp] theorem State.placeCall_latch (c : Call) : (s.placeCall c).latch = s.latch := rfl
@[simp] theorem State.placeCall_cursor (c : Call) : (s.placeCall c).cursor = s.cursor := rfl
@[simp] theorem State.placeCall_cmdDesc (c : Call) : (s.placeCall c).cmdDesc = s.cmdDesc := rfl
@[simp] theorem State.placeCall_pollDesc (c : Call) : (s.placeCall c).pollDesc = s.pollDesc := rfl
@[simp] theorem State.placeCall_pollClass (c : Call) : (s.placeCall c).pollClass = s.pollClass := rfl
@[simp] theorem State.placeCall_mem (c : Call) : (s.placeCall c).mem = s.mem := rfl
@[simp] theorem State.placeCall_window (c : Call) : (s.placeCall c).window = s.window := rfl
@[simp] theorem State.placeCall_trace (c : Call) : (s.placeCall c).trace = s.trace ++ [.call c] := rfl
@[simp] theorem State.placeCall_host (c : Call) : (s.placeCall c).host = s.host := rfl
@[simp] theorem State.placeCall_transport (c : Call) : (s.placeCall c).transport = s.transport := rfl
@[simp] theorem State.placeCall_turns (c : Call) : (s.placeCall c).turns = s.turns := rfl
@[simp] theorem State.placeCall_fresh (c : Call) : (s.placeCall c).fresh = s.fresh := rfl
@[simp] theorem State.placeCall_period (c : Call) : (s.placeCall c).period = s.period := rfl

@[simp] theorem State.callIssueCmd_cfg (d : CmdDesc) : (s.callIssueCmd d).cfg = s.cfg := rfl
@[simp] theorem State.callIssueCmd_args (d : CmdDesc) : (s.callIssueCmd d).args = s.args := rfl
@[simp] theorem State.callIssueCmd_stat (d : CmdDesc) : (s.callIssueCmd d).stat = s.stat := rfl
@[simp] theorem State.callIssueCmd_seq (d : CmdDesc) : (s.callIssueCmd d).seq = s.seq := rfl
@[simp] theorem State.callIssueCmd_call (d : CmdDesc) : (s.callIssueCmd d).call = some (.issueCmd d) := rfl
@[simp] theorem State.callIssueCmd_latch (d : CmdDesc) : (s.callIssueCmd d).latch = s.latch := rfl
@[simp] theorem State.callIssueCmd_cursor (d : CmdDesc) : (s.callIssueCmd d).cursor = s.cursor := rfl
@[simp] theorem State.callIssueCmd_cmdDesc (d : CmdDesc) : (s.callIssueCmd d).cmdDesc = cmdRegs d := rfl
@[simp] theorem State.callIssueCmd_pollDesc (d : CmdDesc) : (s.callIssueCmd d).pollDesc = s.pollDesc := rfl
@[simp] theorem State.callIssueCmd_pollClass (d : CmdDesc) : (s.callIssueCmd d).pollClass = s.pollClass := rfl
@[simp] theorem State.callIssueCmd_mem (d : CmdDesc) : (s.callIssueCmd d).mem = s.mem := rfl
@[simp] theorem State.callIssueCmd_window (d : CmdDesc) : (s.callIssueCmd d).window = s.window := rfl
@[simp] theorem State.callIssueCmd_trace (d : CmdDesc) : (s.callIssueCmd d).trace = s.trace ++ [.call (.issueCmd d)] := rfl
@[simp] theorem State.callIssueCmd_host (d : CmdDesc) : (s.callIssueCmd d).host = s.host := rfl
@[simp] theorem State.callIssueCmd_transport (d : CmdDesc) : (s.callIssueCmd d).transport = s.transport := rfl
@[simp] theorem State.callIssueCmd_turns (d : CmdDesc) : (s.callIssueCmd d).turns = s.turns := rfl
@[simp] theorem State.callIssueCmd_fresh (d : CmdDesc) : (s.callIssueCmd d).fresh = s.fresh := rfl
@[simp] theorem State.callIssueCmd_period (d : CmdDesc) : (s.callIssueCmd d).period = s.period := rfl

@[simp] theorem State.callAutoPoll_cfg (p : PollDesc) (c : PollClass) : (s.callAutoPoll p c).cfg = s.cfg := rfl
@[simp] theorem State.callAutoPoll_args (p : PollDesc) (c : PollClass) : (s.callAutoPoll p c).args = s.args := rfl
@[simp] theorem State.callAutoPoll_stat (p : PollDesc) (c : PollClass) : (s.callAutoPoll p c).stat = s.stat := rfl
@[simp] theorem State.callAutoPoll_seq (p : PollDesc) (c : PollClass) : (s.callAutoPoll p c).seq = s.seq := rfl
@[simp] theorem State.callAutoPoll_call (p : PollDesc) (c : PollClass) : (s.callAutoPoll p c).call = some (.autoPoll (s.desc .rdsr 0 0) p c) := rfl
@[simp] theorem State.callAutoPoll_latch (p : PollDesc) (c : PollClass) : (s.callAutoPoll p c).latch = s.latch := rfl
@[simp] theorem State.callAutoPoll_cursor (p : PollDesc) (c : PollClass) : (s.callAutoPoll p c).cursor = s.cursor := rfl
@[simp] theorem State.callAutoPoll_cmdDesc (p : PollDesc) (c : PollClass) : (s.callAutoPoll p c).cmdDesc = cmdRegs (s.desc .rdsr 0 0) := rfl
@[simp] theorem State.callAutoPoll_pollDesc (p : PollDesc) (c : PollClass) : (s.callAutoPoll p c).pollDesc = pollRegs p := rfl
@[simp] theorem State.callAutoPoll_pollClass (p : PollDesc) (c : PollClass) : (s.callAutoPoll p c).pollClass = c.bits := rfl
@[simp] theorem State.callAutoPoll_mem (p : PollDesc) (c : PollClass) : (s.callAutoPoll p c).mem = s.mem := rfl
@[simp] theorem State.callAutoPoll_window (p : PollDesc) (c : PollClass) : (s.callAutoPoll p c).window = s.window := rfl
@[simp] theorem State.callAutoPoll_trace (p : PollDesc) (c : PollClass) : (s.callAutoPoll p c).trace = s.trace ++ [.call (.autoPoll (s.desc .rdsr 0 0) p c)] := rfl
@[simp] theorem State.callAutoPoll_host (p : PollDesc) (c : PollClass) : (s.callAutoPoll p c).host = s.host := rfl
@[simp] theorem State.callAutoPoll_transport (p : PollDesc) (c : PollClass) : (s.callAutoPoll p c).transport = s.transport := rfl
@[simp] theorem State.callAutoPoll_turns (p : PollDesc) (c : PollClass) : (s.callAutoPoll p c).turns = s.turns := rfl
@[simp] theorem State.callAutoPoll_fresh (p : PollDesc) (c : PollClass) : (s.callAutoPoll p c).fresh = s.fresh := rfl
@[simp] theorem State.callAutoPoll_period (p : PollDesc) (c : PollClass) : (s.callAutoPoll p c).period = s.period := rfl

@[simp] theorem State.callTxData_cfg (buf : List Byte) : (s.callTxData buf).cfg = s.cfg := rfl
@[simp] theorem State.callTxData_args (buf : List Byte) : (s.callTxData buf).args = s.args := rfl
@[simp] theorem State.callTxData_stat (buf : List Byte) : (s.callTxData buf).stat = s.stat := rfl
@[simp] theorem State.callTxData_seq (buf : List Byte) : (s.callTxData buf).seq = s.seq := rfl
@[simp] theorem State.callTxData_call (buf : List Byte) : (s.callTxData buf).call = some (.txData buf) := rfl
@[simp] theorem State.callTxData_latch (buf : List Byte) : (s.callTxData buf).latch = s.latch := rfl
@[simp] theorem State.callTxData_cursor (buf : List Byte) : (s.callTxData buf).cursor = s.cursor := rfl
@[simp] theorem State.callTxData_cmdDesc (buf : List Byte) : (s.callTxData buf).cmdDesc = s.cmdDesc := rfl
@[simp] theorem State.callTxData_pollDesc (buf : List Byte) : (s.callTxData buf).pollDesc = s.pollDesc := rfl
@[simp] theorem State.callTxData_pollClass (buf : List Byte) : (s.callTxData buf).pollClass = s.pollClass := rfl
@[simp] theorem State.callTxData_mem (buf : List Byte) : (s.callTxData buf).mem = s.mem := rfl
@[simp] theorem State.callTxData_window (buf : List Byte) : (s.callTxData buf).window = s.window := rfl
@[simp] theorem State.callTxData_trace (buf : List Byte) : (s.callTxData buf).trace = s.trace ++ [.call (.txData buf)] := rfl
@[simp] theorem State.callTxData_host (buf : List Byte) : (s.callTxData buf).host = s.host := rfl
@[simp] theorem State.callTxData_transport (buf : List Byte) : (s.callTxData buf).transport = s.transport := rfl
@[simp] theorem State.callTxData_turns (buf : List Byte) : (s.callTxData buf).turns = s.turns := rfl
@[simp] theorem State.callTxData_fresh (buf : List Byte) : (s.callTxData buf).fresh = s.fresh := rfl
@[simp] theorem State.callTxData_period (buf : List Byte) : (s.callTxData buf).period = s.period := rfl

@[simp] theorem State.callRxData_cfg (n : Nat) : (s.callRxData n).cfg = s.cfg := rfl
@[simp] theorem State.callRxData_args (n : Nat) : (s.callRxData n).args = s.args := rfl
@[simp] theorem State.callRxData_stat (n : Nat) : (s.callRxData n).stat = s.stat := rfl
@[simp] theorem State.callRxData_seq (n : Nat) : (s.callRxData n).seq = s.seq := rfl
@[simp] theorem State.callRxData_call (n : Nat) : (s.callRxData n).call = some (.rxData n) := rfl
@[simp] theorem State.callRxData_latch (n : Nat) : (s.callRxData n).latch = s.latch := rfl
@[simp] theorem State.callRxData_cursor (n : Nat) : (s.callRxData n).cursor = s.cursor := rfl
@[simp] theorem State.callRxData_cmdDesc (n : Nat) : (s.callRxData n).cmdDesc = s.cmdDesc := rfl
@[simp] theorem State.callRxData_pollDesc (n : Nat) : (s.callRxData n).pollDesc = s.pollDesc := rfl
@[simp] theorem State.callRxData_pollClass (n : Nat) : (s.callRxData n).pollClass = s.pollClass := rfl
@[simp] theorem State.callRxData_mem (n : Nat) : (s.callRxData n).mem = s.mem := rfl
@[simp] theorem State.callRxData_window (n : Nat) : (s.callRxData n).window = s.window := rfl
@[simp] theorem State.callRxData_trace (n : Nat) : (s.callRxData n).trace = s.trace ++ [.call (.rxData n)] := rfl
@[simp] theorem State.callRxData_host (n : Nat) : (s.callRxData n).host = s.host := rfl
@[simp] theorem State.callRxData_transport (n : Nat) : (s.callRxData n).transport = s.transport := rfl
@[simp] theorem State.callRxData_turns (n : Nat) : (s.callRxData n).turns = s.turns := rfl
@[simp] theorem State.callRxData_fresh (n : Nat) : (s.callRxData n).fresh = s.fresh := rfl
@[simp] theorem State.callRxData_period (n : Nat) : (s.callRxData n).period = s.period := rfl

@[simp] theorem State.callMemMapCfg_cfg (d : CmdDesc) : (s.callMemMapCfg d).cfg = s.cfg := rfl
@[simp] theorem State.callMemMapCfg_args (d : CmdDesc) : (s.callMemMapCfg d).args = s.args := rfl
@[simp] theorem State.callMemMapCfg_stat (d : CmdDesc) : (s.callMemMapCfg d).stat = s.stat := rfl
@[simp] theorem State.callMemMapCfg_seq (d : CmdDesc) : (s.callMemMapCfg d).seq = s.seq := rfl
@[simp] theorem State.callMemMapCfg_call (d : CmdDesc) : (s.callMemMapCfg d).call = some (.memMapCfg d s.cfg.mmTimeoutCfg) := rfl
@[simp] theorem State.callMemMapCfg_latch (d : CmdDesc) : (s.callMemMapCfg d).latch = s.latch := rfl
@[simp] theorem State.callMemMapCfg_cursor (d : CmdDesc) : (s.callMemMapCfg d).cursor = s.cursor := rfl
@[simp] theorem State.callMemMapCfg_cmdDesc (d : CmdDesc) : (s.callMemMapCfg d).cmdDesc = cmdRegs d := rfl
@[simp] theorem State.callMemMapCfg_pollDesc (d : CmdDesc) : (s.callMemMapCfg d).pollDesc = s.pollDesc := rfl
@[simp] theorem State.callMemMapCfg_pollClass (d : CmdDesc) : (s.callMemMapCfg d).pollClass = s.pollClass := rfl
@[simp] theorem State.callMemMapCfg_mem (d : CmdDesc) : (s.callMemMapCfg d).mem = s.mem := rfl
@[simp] theorem State.callMemMapCfg_window (d : CmdDesc) : (s.callMemMapCfg d).window = s.window := rfl
@[simp] theorem State.callMemMapCfg_trace (d : CmdDesc) : (s.callMemMapCfg d).trace = s.trace ++ [.call (.memMapCfg d s.cfg.mmTimeoutCfg)] := rfl
@[simp] theorem State.callMemMapCfg_host (d : CmdDesc) : (s.callMemMapCfg d).host = s.host := rfl
@[simp] theorem State.callMemMapCfg_transport (d : CmdDesc) : (s.callMemMapCfg d).transport = s.transport := rfl
@[simp] theorem State.callMemMapCfg_turns (d : CmdDesc) : (s.callMemMapCfg d).turns = s.turns := rfl
@[simp] theorem State.callMemMapCfg_fresh (d : CmdDesc) : (s.callMemMapCfg d).fresh = s.fresh := rfl
@[simp] theorem State.callMemMapCfg_period (d : CmdDesc) : (s.callMemMapCfg d).period = s.period := rfl

@[simp] theorem State.accept_cfg (i : Instr) (p : Pos) : (s.accept i p).cfg = s.cfg := rfl
@[simp] theorem State.accept_args (i : Instr) (p : Pos) : (s.accept i p).args = s.args := rfl
@[simp] theorem State.accept_stat (i : Instr) (p : Pos) : (s.accept i p).stat = s.stat.accepted := rfl
@[simp] theorem State.accept_seq (i : Instr) (p : Pos) : (s.accept i p).seq = .running p := rfl
@[simp] theorem State.accept_call (i : Instr) (p : Pos) : (s.accept i p).call = s.call := rfl
@[simp] theorem State.accept_latch (i : Instr) (p : Pos) : (s.accept i p).latch = ⟨requestOp i, s.args.arg0, s.args.arg1, s.args.arg2⟩ := rfl
@[simp] theorem State.accept_cursor (i : Instr) (p : Pos) : (s.accept i p).cursor = s.cursor := rfl
@[simp] theorem State.accept_cmdDesc (i : Instr) (p : Pos) : (s.accept i p).cmdDesc = s.cmdDesc := rfl
@[simp] theorem State.accept_pollDesc (i : Instr) (p : Pos) : (s.accept i p).pollDesc = s.pollDesc := rfl
@[simp] theorem State.accept_pollClass (i : Instr) (p : Pos) : (s.accept i p).pollClass = s.pollClass := rfl
@[simp] theorem State.accept_mem (i : Instr) (p : Pos) : (s.accept i p).mem = s.mem := rfl
@[simp] theorem State.accept_window (i : Instr) (p : Pos) : (s.accept i p).window = s.window := rfl
@[simp] theorem State.accept_trace (i : Instr) (p : Pos) : (s.accept i p).trace = s.trace := rfl
@[simp] theorem State.accept_host (i : Instr) (p : Pos) : (s.accept i p).host = s.host := rfl
@[simp] theorem State.accept_transport (i : Instr) (p : Pos) : (s.accept i p).transport = s.transport := rfl
@[simp] theorem State.accept_turns (i : Instr) (p : Pos) : (s.accept i p).turns = s.turns := rfl
@[simp] theorem State.accept_fresh (i : Instr) (p : Pos) : (s.accept i p).fresh = s.fresh := rfl
@[simp] theorem State.accept_period (i : Instr) (p : Pos) : (s.accept i p).period = s.period := rfl

@[simp] theorem State.illegalWord_cfg : s.illegalWord.cfg = s.cfg := rfl
@[simp] theorem State.illegalWord_args : s.illegalWord.args = s.args := rfl
@[simp] theorem State.illegalWord_stat : s.illegalWord.stat = s.stat.illegal := rfl
@[simp] theorem State.illegalWord_seq : s.illegalWord.seq = s.seq := rfl
@[simp] theorem State.illegalWord_call : s.illegalWord.call = s.call := rfl
@[simp] theorem State.illegalWord_latch : s.illegalWord.latch = s.latch := rfl
@[simp] theorem State.illegalWord_cursor : s.illegalWord.cursor = s.cursor := rfl
@[simp] theorem State.illegalWord_cmdDesc : s.illegalWord.cmdDesc = s.cmdDesc := rfl
@[simp] theorem State.illegalWord_pollDesc : s.illegalWord.pollDesc = s.pollDesc := rfl
@[simp] theorem State.illegalWord_pollClass : s.illegalWord.pollClass = s.pollClass := rfl
@[simp] theorem State.illegalWord_mem : s.illegalWord.mem = s.mem := rfl
@[simp] theorem State.illegalWord_window : s.illegalWord.window = s.window := rfl
@[simp] theorem State.illegalWord_trace : s.illegalWord.trace = s.trace := rfl
@[simp] theorem State.illegalWord_host : s.illegalWord.host = s.host := rfl
@[simp] theorem State.illegalWord_transport : s.illegalWord.transport = s.transport := rfl
@[simp] theorem State.illegalWord_turns : s.illegalWord.turns = s.turns := rfl
@[simp] theorem State.illegalWord_fresh : s.illegalWord.fresh = s.fresh := rfl
@[simp] theorem State.illegalWord_period : s.illegalWord.period = s.period := rfl

@[simp] theorem State.setAddr4_cfg (v : Bool) : (s.setAddr4 v).cfg = s.cfg := rfl
@[simp] theorem State.setAddr4_args (v : Bool) : (s.setAddr4 v).args = s.args := rfl
@[simp] theorem State.setAddr4_stat (v : Bool) : (s.setAddr4 v).stat = ⟨s.stat.busy, s.stat.done, s.stat.result, v, s.stat.mmap, s.stat.lastSr⟩ := rfl
@[simp] theorem State.setAddr4_seq (v : Bool) : (s.setAddr4 v).seq = s.seq := rfl
@[simp] theorem State.setAddr4_call (v : Bool) : (s.setAddr4 v).call = s.call := rfl
@[simp] theorem State.setAddr4_latch (v : Bool) : (s.setAddr4 v).latch = s.latch := rfl
@[simp] theorem State.setAddr4_cursor (v : Bool) : (s.setAddr4 v).cursor = s.cursor := rfl
@[simp] theorem State.setAddr4_cmdDesc (v : Bool) : (s.setAddr4 v).cmdDesc = s.cmdDesc := rfl
@[simp] theorem State.setAddr4_pollDesc (v : Bool) : (s.setAddr4 v).pollDesc = s.pollDesc := rfl
@[simp] theorem State.setAddr4_pollClass (v : Bool) : (s.setAddr4 v).pollClass = s.pollClass := rfl
@[simp] theorem State.setAddr4_mem (v : Bool) : (s.setAddr4 v).mem = s.mem := rfl
@[simp] theorem State.setAddr4_window (v : Bool) : (s.setAddr4 v).window = s.window := rfl
@[simp] theorem State.setAddr4_trace (v : Bool) : (s.setAddr4 v).trace = s.trace := rfl
@[simp] theorem State.setAddr4_host (v : Bool) : (s.setAddr4 v).host = s.host := rfl
@[simp] theorem State.setAddr4_transport (v : Bool) : (s.setAddr4 v).transport = s.transport := rfl
@[simp] theorem State.setAddr4_turns (v : Bool) : (s.setAddr4 v).turns = s.turns := rfl
@[simp] theorem State.setAddr4_fresh (v : Bool) : (s.setAddr4 v).fresh = s.fresh := rfl
@[simp] theorem State.setAddr4_period (v : Bool) : (s.setAddr4 v).period = s.period := rfl

@[simp] theorem State.logRead_cfg (a : Word) : (s.logRead a).cfg = s.cfg := rfl
@[simp] theorem State.logRead_args (a : Word) : (s.logRead a).args = s.args := rfl
@[simp] theorem State.logRead_stat (a : Word) : (s.logRead a).stat = s.stat := rfl
@[simp] theorem State.logRead_seq (a : Word) : (s.logRead a).seq = s.seq := rfl
@[simp] theorem State.logRead_call (a : Word) : (s.logRead a).call = s.call := rfl
@[simp] theorem State.logRead_latch (a : Word) : (s.logRead a).latch = s.latch := rfl
@[simp] theorem State.logRead_cursor (a : Word) : (s.logRead a).cursor = s.cursor := rfl
@[simp] theorem State.logRead_cmdDesc (a : Word) : (s.logRead a).cmdDesc = s.cmdDesc := rfl
@[simp] theorem State.logRead_pollDesc (a : Word) : (s.logRead a).pollDesc = s.pollDesc := rfl
@[simp] theorem State.logRead_pollClass (a : Word) : (s.logRead a).pollClass = s.pollClass := rfl
@[simp] theorem State.logRead_mem (a : Word) : (s.logRead a).mem = s.mem := rfl
@[simp] theorem State.logRead_window (a : Word) : (s.logRead a).window = s.window := rfl
@[simp] theorem State.logRead_trace (a : Word) : (s.logRead a).trace = s.trace ++ [.memRead a (s.memRead a)] := rfl
@[simp] theorem State.logRead_host (a : Word) : (s.logRead a).host = s.host := rfl
@[simp] theorem State.logRead_transport (a : Word) : (s.logRead a).transport = s.transport := rfl
@[simp] theorem State.logRead_turns (a : Word) : (s.logRead a).turns = s.turns := rfl
@[simp] theorem State.logRead_fresh (a : Word) : (s.logRead a).fresh = s.fresh := rfl
@[simp] theorem State.logRead_period (a : Word) : (s.logRead a).period = s.period := rfl

@[simp] theorem State.memWriteAny_cfg (a : Word) : (s.memWriteAny a).cfg = s.cfg := rfl
@[simp] theorem State.memWriteAny_args (a : Word) : (s.memWriteAny a).args = s.args := rfl
@[simp] theorem State.memWriteAny_stat (a : Word) : (s.memWriteAny a).stat = s.stat := rfl
@[simp] theorem State.memWriteAny_seq (a : Word) : (s.memWriteAny a).seq = s.seq := rfl
@[simp] theorem State.memWriteAny_call (a : Word) : (s.memWriteAny a).call = s.call := rfl
@[simp] theorem State.memWriteAny_latch (a : Word) : (s.memWriteAny a).latch = s.latch := rfl
@[simp] theorem State.memWriteAny_cursor (a : Word) : (s.memWriteAny a).cursor = s.cursor := rfl
@[simp] theorem State.memWriteAny_cmdDesc (a : Word) : (s.memWriteAny a).cmdDesc = s.cmdDesc := rfl
@[simp] theorem State.memWriteAny_pollDesc (a : Word) : (s.memWriteAny a).pollDesc = s.pollDesc := rfl
@[simp] theorem State.memWriteAny_pollClass (a : Word) : (s.memWriteAny a).pollClass = s.pollClass := rfl
@[simp] theorem State.memWriteAny_mem (a : Word) : (s.memWriteAny a).mem = s.mem.write a.toNat (Config.freeByte s.fresh) := rfl
@[simp] theorem State.memWriteAny_window (a : Word) : (s.memWriteAny a).window = s.window := rfl
@[simp] theorem State.memWriteAny_trace (a : Word) : (s.memWriteAny a).trace = s.trace ++ [.memWrite a (Config.freeByte s.fresh)] := rfl
@[simp] theorem State.memWriteAny_host (a : Word) : (s.memWriteAny a).host = s.host := rfl
@[simp] theorem State.memWriteAny_transport (a : Word) : (s.memWriteAny a).transport = s.transport := rfl
@[simp] theorem State.memWriteAny_turns (a : Word) : (s.memWriteAny a).turns = s.turns := rfl
@[simp] theorem State.memWriteAny_fresh (a : Word) : (s.memWriteAny a).fresh = s.fresh + 1 := rfl
@[simp] theorem State.memWriteAny_period (a : Word) : (s.memWriteAny a).period = s.period := rfl

@[simp] theorem State.setCur_cfg (v : Word) : (s.setCur v).cfg = s.cfg := rfl
@[simp] theorem State.setCur_args (v : Word) : (s.setCur v).args = s.args := rfl
@[simp] theorem State.setCur_stat (v : Word) : (s.setCur v).stat = s.stat := rfl
@[simp] theorem State.setCur_seq (v : Word) : (s.setCur v).seq = s.seq := rfl
@[simp] theorem State.setCur_call (v : Word) : (s.setCur v).call = s.call := rfl
@[simp] theorem State.setCur_latch (v : Word) : (s.setCur v).latch = s.latch := rfl
@[simp] theorem State.setCur_cursor (v : Word) : (s.setCur v).cursor = ⟨v, s.cursor.enda, s.cursor.chunk, s.cursor.off⟩ := rfl
@[simp] theorem State.setCur_cmdDesc (v : Word) : (s.setCur v).cmdDesc = s.cmdDesc := rfl
@[simp] theorem State.setCur_pollDesc (v : Word) : (s.setCur v).pollDesc = s.pollDesc := rfl
@[simp] theorem State.setCur_pollClass (v : Word) : (s.setCur v).pollClass = s.pollClass := rfl
@[simp] theorem State.setCur_mem (v : Word) : (s.setCur v).mem = s.mem := rfl
@[simp] theorem State.setCur_window (v : Word) : (s.setCur v).window = s.window := rfl
@[simp] theorem State.setCur_trace (v : Word) : (s.setCur v).trace = s.trace := rfl
@[simp] theorem State.setCur_host (v : Word) : (s.setCur v).host = s.host := rfl
@[simp] theorem State.setCur_transport (v : Word) : (s.setCur v).transport = s.transport := rfl
@[simp] theorem State.setCur_turns (v : Word) : (s.setCur v).turns = s.turns := rfl
@[simp] theorem State.setCur_fresh (v : Word) : (s.setCur v).fresh = s.fresh := rfl
@[simp] theorem State.setCur_period (v : Word) : (s.setCur v).period = s.period := rfl

@[simp] theorem State.setEnda_cfg (v : Word) : (s.setEnda v).cfg = s.cfg := rfl
@[simp] theorem State.setEnda_args (v : Word) : (s.setEnda v).args = s.args := rfl
@[simp] theorem State.setEnda_stat (v : Word) : (s.setEnda v).stat = s.stat := rfl
@[simp] theorem State.setEnda_seq (v : Word) : (s.setEnda v).seq = s.seq := rfl
@[simp] theorem State.setEnda_call (v : Word) : (s.setEnda v).call = s.call := rfl
@[simp] theorem State.setEnda_latch (v : Word) : (s.setEnda v).latch = s.latch := rfl
@[simp] theorem State.setEnda_cursor (v : Word) : (s.setEnda v).cursor = ⟨s.cursor.cur, v, s.cursor.chunk, s.cursor.off⟩ := rfl
@[simp] theorem State.setEnda_cmdDesc (v : Word) : (s.setEnda v).cmdDesc = s.cmdDesc := rfl
@[simp] theorem State.setEnda_pollDesc (v : Word) : (s.setEnda v).pollDesc = s.pollDesc := rfl
@[simp] theorem State.setEnda_pollClass (v : Word) : (s.setEnda v).pollClass = s.pollClass := rfl
@[simp] theorem State.setEnda_mem (v : Word) : (s.setEnda v).mem = s.mem := rfl
@[simp] theorem State.setEnda_window (v : Word) : (s.setEnda v).window = s.window := rfl
@[simp] theorem State.setEnda_trace (v : Word) : (s.setEnda v).trace = s.trace := rfl
@[simp] theorem State.setEnda_host (v : Word) : (s.setEnda v).host = s.host := rfl
@[simp] theorem State.setEnda_transport (v : Word) : (s.setEnda v).transport = s.transport := rfl
@[simp] theorem State.setEnda_turns (v : Word) : (s.setEnda v).turns = s.turns := rfl
@[simp] theorem State.setEnda_fresh (v : Word) : (s.setEnda v).fresh = s.fresh := rfl
@[simp] theorem State.setEnda_period (v : Word) : (s.setEnda v).period = s.period := rfl

@[simp] theorem State.setChunk_cfg (v : Word) : (s.setChunk v).cfg = s.cfg := rfl
@[simp] theorem State.setChunk_args (v : Word) : (s.setChunk v).args = s.args := rfl
@[simp] theorem State.setChunk_stat (v : Word) : (s.setChunk v).stat = s.stat := rfl
@[simp] theorem State.setChunk_seq (v : Word) : (s.setChunk v).seq = s.seq := rfl
@[simp] theorem State.setChunk_call (v : Word) : (s.setChunk v).call = s.call := rfl
@[simp] theorem State.setChunk_latch (v : Word) : (s.setChunk v).latch = s.latch := rfl
@[simp] theorem State.setChunk_cursor (v : Word) : (s.setChunk v).cursor = ⟨s.cursor.cur, s.cursor.enda, v, s.cursor.off⟩ := rfl
@[simp] theorem State.setChunk_cmdDesc (v : Word) : (s.setChunk v).cmdDesc = s.cmdDesc := rfl
@[simp] theorem State.setChunk_pollDesc (v : Word) : (s.setChunk v).pollDesc = s.pollDesc := rfl
@[simp] theorem State.setChunk_pollClass (v : Word) : (s.setChunk v).pollClass = s.pollClass := rfl
@[simp] theorem State.setChunk_mem (v : Word) : (s.setChunk v).mem = s.mem := rfl
@[simp] theorem State.setChunk_window (v : Word) : (s.setChunk v).window = s.window := rfl
@[simp] theorem State.setChunk_trace (v : Word) : (s.setChunk v).trace = s.trace := rfl
@[simp] theorem State.setChunk_host (v : Word) : (s.setChunk v).host = s.host := rfl
@[simp] theorem State.setChunk_transport (v : Word) : (s.setChunk v).transport = s.transport := rfl
@[simp] theorem State.setChunk_turns (v : Word) : (s.setChunk v).turns = s.turns := rfl
@[simp] theorem State.setChunk_fresh (v : Word) : (s.setChunk v).fresh = s.fresh := rfl
@[simp] theorem State.setChunk_period (v : Word) : (s.setChunk v).period = s.period := rfl

@[simp] theorem State.setOff_cfg (v : Word) : (s.setOff v).cfg = s.cfg := rfl
@[simp] theorem State.setOff_args (v : Word) : (s.setOff v).args = s.args := rfl
@[simp] theorem State.setOff_stat (v : Word) : (s.setOff v).stat = s.stat := rfl
@[simp] theorem State.setOff_seq (v : Word) : (s.setOff v).seq = s.seq := rfl
@[simp] theorem State.setOff_call (v : Word) : (s.setOff v).call = s.call := rfl
@[simp] theorem State.setOff_latch (v : Word) : (s.setOff v).latch = s.latch := rfl
@[simp] theorem State.setOff_cursor (v : Word) : (s.setOff v).cursor = ⟨s.cursor.cur, s.cursor.enda, s.cursor.chunk, v⟩ := rfl
@[simp] theorem State.setOff_cmdDesc (v : Word) : (s.setOff v).cmdDesc = s.cmdDesc := rfl
@[simp] theorem State.setOff_pollDesc (v : Word) : (s.setOff v).pollDesc = s.pollDesc := rfl
@[simp] theorem State.setOff_pollClass (v : Word) : (s.setOff v).pollClass = s.pollClass := rfl
@[simp] theorem State.setOff_mem (v : Word) : (s.setOff v).mem = s.mem := rfl
@[simp] theorem State.setOff_window (v : Word) : (s.setOff v).window = s.window := rfl
@[simp] theorem State.setOff_trace (v : Word) : (s.setOff v).trace = s.trace := rfl
@[simp] theorem State.setOff_host (v : Word) : (s.setOff v).host = s.host := rfl
@[simp] theorem State.setOff_transport (v : Word) : (s.setOff v).transport = s.transport := rfl
@[simp] theorem State.setOff_turns (v : Word) : (s.setOff v).turns = s.turns := rfl
@[simp] theorem State.setOff_fresh (v : Word) : (s.setOff v).fresh = s.fresh := rfl
@[simp] theorem State.setOff_period (v : Word) : (s.setOff v).period = s.period := rfl

@[simp] theorem State.setMapped_cfg : s.setMapped.cfg = s.cfg := rfl
@[simp] theorem State.setMapped_args : s.setMapped.args = s.args := rfl
@[simp] theorem State.setMapped_stat : s.setMapped.stat = ⟨s.stat.busy, s.stat.done, s.stat.result, s.stat.addr4, true, s.stat.lastSr⟩ := rfl
@[simp] theorem State.setMapped_seq : s.setMapped.seq = s.seq := rfl
@[simp] theorem State.setMapped_call : s.setMapped.call = s.call := rfl
@[simp] theorem State.setMapped_latch : s.setMapped.latch = s.latch := rfl
@[simp] theorem State.setMapped_cursor : s.setMapped.cursor = s.cursor := rfl
@[simp] theorem State.setMapped_cmdDesc : s.setMapped.cmdDesc = s.cmdDesc := rfl
@[simp] theorem State.setMapped_pollDesc : s.setMapped.pollDesc = s.pollDesc := rfl
@[simp] theorem State.setMapped_pollClass : s.setMapped.pollClass = s.pollClass := rfl
@[simp] theorem State.setMapped_mem : s.setMapped.mem = s.mem := rfl
@[simp] theorem State.setMapped_window : s.setMapped.window = some (s.desc .qfr 0 0) := rfl
@[simp] theorem State.setMapped_trace : s.setMapped.trace = s.trace := rfl
@[simp] theorem State.setMapped_host : s.setMapped.host = s.host := rfl
@[simp] theorem State.setMapped_transport : s.setMapped.transport = s.transport := rfl
@[simp] theorem State.setMapped_turns : s.setMapped.turns = s.turns := rfl
@[simp] theorem State.setMapped_fresh : s.setMapped.fresh = s.fresh := rfl
@[simp] theorem State.setMapped_period : s.setMapped.period = s.period + 1 := rfl

@[simp] theorem State.setLastSr_cfg (b : Byte) : (s.setLastSr b).cfg = s.cfg := rfl
@[simp] theorem State.setLastSr_args (b : Byte) : (s.setLastSr b).args = s.args := rfl
@[simp] theorem State.setLastSr_stat (b : Byte) : (s.setLastSr b).stat = ⟨s.stat.busy, s.stat.done, s.stat.result, s.stat.addr4, s.stat.mmap, b⟩ := rfl
@[simp] theorem State.setLastSr_seq (b : Byte) : (s.setLastSr b).seq = s.seq := rfl
@[simp] theorem State.setLastSr_call (b : Byte) : (s.setLastSr b).call = s.call := rfl
@[simp] theorem State.setLastSr_latch (b : Byte) : (s.setLastSr b).latch = s.latch := rfl
@[simp] theorem State.setLastSr_cursor (b : Byte) : (s.setLastSr b).cursor = s.cursor := rfl
@[simp] theorem State.setLastSr_cmdDesc (b : Byte) : (s.setLastSr b).cmdDesc = s.cmdDesc := rfl
@[simp] theorem State.setLastSr_pollDesc (b : Byte) : (s.setLastSr b).pollDesc = s.pollDesc := rfl
@[simp] theorem State.setLastSr_pollClass (b : Byte) : (s.setLastSr b).pollClass = s.pollClass := rfl
@[simp] theorem State.setLastSr_mem (b : Byte) : (s.setLastSr b).mem = s.mem := rfl
@[simp] theorem State.setLastSr_window (b : Byte) : (s.setLastSr b).window = s.window := rfl
@[simp] theorem State.setLastSr_trace (b : Byte) : (s.setLastSr b).trace = s.trace := rfl
@[simp] theorem State.setLastSr_host (b : Byte) : (s.setLastSr b).host = s.host := rfl
@[simp] theorem State.setLastSr_transport (b : Byte) : (s.setLastSr b).transport = s.transport := rfl
@[simp] theorem State.setLastSr_turns (b : Byte) : (s.setLastSr b).turns = s.turns := rfl
@[simp] theorem State.setLastSr_fresh (b : Byte) : (s.setLastSr b).fresh = s.fresh := rfl
@[simp] theorem State.setLastSr_period (b : Byte) : (s.setLastSr b).period = s.period := rfl

@[simp] theorem State.answered_cfg (p : Pos) (a : Answer) : (s.answered p a).cfg = s.cfg := rfl
@[simp] theorem State.answered_args (p : Pos) (a : Answer) : (s.answered p a).args = s.args := rfl
@[simp] theorem State.answered_stat (p : Pos) (a : Answer) : (s.answered p a).stat = s.stat := rfl
@[simp] theorem State.answered_seq (p : Pos) (a : Answer) : (s.answered p a).seq = .running (s.after a p) := rfl
@[simp] theorem State.answered_call (p : Pos) (a : Answer) : (s.answered p a).call = none := rfl
@[simp] theorem State.answered_latch (p : Pos) (a : Answer) : (s.answered p a).latch = s.latch := rfl
@[simp] theorem State.answered_cursor (p : Pos) (a : Answer) : (s.answered p a).cursor = s.cursor := rfl
@[simp] theorem State.answered_cmdDesc (p : Pos) (a : Answer) : (s.answered p a).cmdDesc = s.cmdDesc := rfl
@[simp] theorem State.answered_pollDesc (p : Pos) (a : Answer) : (s.answered p a).pollDesc = s.pollDesc := rfl
@[simp] theorem State.answered_pollClass (p : Pos) (a : Answer) : (s.answered p a).pollClass = s.pollClass := rfl
@[simp] theorem State.answered_mem (p : Pos) (a : Answer) : (s.answered p a).mem = s.mem := rfl
@[simp] theorem State.answered_window (p : Pos) (a : Answer) : (s.answered p a).window = s.window := rfl
@[simp] theorem State.answered_trace (p : Pos) (a : Answer) : (s.answered p a).trace = s.trace ++ [.answer a] := rfl
@[simp] theorem State.answered_host (p : Pos) (a : Answer) : (s.answered p a).host = s.host := rfl
@[simp] theorem State.answered_transport (p : Pos) (a : Answer) : (s.answered p a).transport = s.transport := rfl
@[simp] theorem State.answered_turns (p : Pos) (a : Answer) : (s.answered p a).turns = s.turns := rfl
@[simp] theorem State.answered_fresh (p : Pos) (a : Answer) : (s.answered p a).fresh = s.fresh := rfl
@[simp] theorem State.answered_period (p : Pos) (a : Answer) : (s.answered p a).period = s.period := rfl

@[simp] theorem State.blockReset_cfg : s.blockReset.cfg = s.cfg := by simp only [State.blockReset]
@[simp] theorem State.blockReset_args : s.blockReset.args = State.reset.args := rfl
@[simp] theorem State.blockReset_stat : s.blockReset.stat = State.reset.stat := rfl
@[simp] theorem State.blockReset_seq : s.blockReset.seq = State.reset.seq := rfl
@[simp] theorem State.blockReset_call : s.blockReset.call = State.reset.call := rfl
@[simp] theorem State.blockReset_latch : s.blockReset.latch = State.reset.latch := rfl
@[simp] theorem State.blockReset_cursor : s.blockReset.cursor = State.reset.cursor := rfl
@[simp] theorem State.blockReset_cmdDesc : s.blockReset.cmdDesc = State.reset.cmdDesc := rfl
@[simp] theorem State.blockReset_pollDesc : s.blockReset.pollDesc = State.reset.pollDesc := rfl
@[simp] theorem State.blockReset_pollClass : s.blockReset.pollClass = State.reset.pollClass := rfl
@[simp] theorem State.blockReset_mem : s.blockReset.mem = s.mem := by simp only [State.blockReset]
@[simp] theorem State.blockReset_window : s.blockReset.window = State.reset.window := rfl
@[simp] theorem State.blockReset_trace : s.blockReset.trace = State.reset.trace := rfl
@[simp] theorem State.blockReset_host : s.blockReset.host = s.host := by simp only [State.blockReset]
@[simp] theorem State.blockReset_transport : s.blockReset.transport = s.transport := by simp only [State.blockReset]
@[simp] theorem State.blockReset_turns : s.blockReset.turns = s.turns := by simp only [State.blockReset]
@[simp] theorem State.blockReset_fresh : s.blockReset.fresh = s.fresh := by simp only [State.blockReset]
@[simp] theorem State.blockReset_period : s.blockReset.period = s.period := by simp only [State.blockReset]

end

/-! ### STAT -/

section
variable (t : Stat) (c : ResultCode)

@[simp] theorem Stat.finished_busy : (t.finished c).busy = false := rfl
@[simp] theorem Stat.finished_done : (t.finished c).done = true := rfl
@[simp] theorem Stat.finished_result : (t.finished c).result = c := rfl
@[simp] theorem Stat.finished_addr4 : (t.finished c).addr4 = t.addr4 := rfl
@[simp] theorem Stat.finished_mmap : (t.finished c).mmap = t.mmap := rfl
@[simp] theorem Stat.finished_lastSr : (t.finished c).lastSr = t.lastSr := rfl
@[simp] theorem Stat.accepted_busy : t.accepted.busy = true := rfl
@[simp] theorem Stat.accepted_done : t.accepted.done = false := rfl
@[simp] theorem Stat.accepted_result : t.accepted.result = t.result := rfl
@[simp] theorem Stat.accepted_addr4 : t.accepted.addr4 = t.addr4 := rfl
@[simp] theorem Stat.accepted_mmap : t.accepted.mmap = t.mmap := rfl
@[simp] theorem Stat.accepted_lastSr : t.accepted.lastSr = t.lastSr := rfl
@[simp] theorem Stat.illegal_busy : t.illegal.busy = t.busy := rfl
@[simp] theorem Stat.illegal_done : t.illegal.done = true := rfl
@[simp] theorem Stat.illegal_result : t.illegal.result = .notSupported := rfl
@[simp] theorem Stat.illegal_addr4 : t.illegal.addr4 = t.addr4 := rfl
@[simp] theorem Stat.illegal_mmap : t.illegal.mmap = t.mmap := rfl
@[simp] theorem Stat.illegal_lastSr : t.illegal.lastSr = t.lastSr := rfl

end

end Sys2Proof.Machine
end

