-- ==== Sys2Proof/Laws/Memory.lean ====
section
/-! SUPPORT. The laws of host memory: a read after a write, every other byte untouched, and the canonical form kept by every
operation (spec/20_memory.md R82, R93). -/

namespace Sys2Proof.Machine

theorem Memory.wf_cons {c : Host.Cell} {cs : Memory} (h : Memory.wf (c :: cs) = true) :
    c.1 < 2 ^ 32 ∧ c.2 ≠ Memory.unlisted ∧ (∀ d ∈ cs, c.1 < d.1) ∧ Memory.wf cs = true := by
  simpa [Memory.wf, and_assoc] using h

theorem Memory.wf_cons_of {c : Host.Cell} {cs : Memory} (h1 : c.1 < 2 ^ 32) (h2 : c.2 ≠ Memory.unlisted)
    (h3 : ∀ d ∈ cs, c.1 < d.1) (h4 : Memory.wf cs = true) : Memory.wf (c :: cs) = true := by
  simp only [Memory.wf, Bool.and_eq_true, decide_eq_true_eq, List.all_eq_true, bne_iff_ne]
  exact ⟨⟨⟨h1, h2⟩, h3⟩, h4⟩

/-- An address below every listed one is unlisted. -/
theorem Memory.read_below {m : Memory} {a : Nat} (h : ∀ d ∈ m, a < d.1) : m.read a = Memory.unlisted := by
  induction m with
  | nil => rfl
  | cons c cs ih =>
    have hc := h c (List.mem_cons_self ..)
    simp only [Memory.read, Nat.ne_of_gt hc, if_false]
    exact ih fun d hd => h d (List.mem_cons_of_mem _ hd)

/-- A write leaves every other byte alone. -/
theorem Memory.read_write_other (m : Memory) {a x : Nat} (b : Byte) (h : x ≠ a) : (m.write a b).read x = m.read x := by
  have ha : a ≠ x := Ne.symm h
  induction m with
  | nil => simp only [Memory.write]; split <;> simp [Memory.read, ha]
  | cons c cs ih =>
    simp only [Memory.write]
    split
    · split <;> simp [Memory.read, ha]
    · split
      · next hac => subst hac; split <;> simp [Memory.read, ha]
      · simp [Memory.read, ih]

/-- A read after a write to the same byte gives the byte written. -/
theorem Memory.read_write_same {m : Memory} (hm : m.wf = true) (a : Nat) (b : Byte) : (m.write a b).read a = b := by
  induction m with
  | nil => simp only [Memory.write]; split <;> simp_all [Memory.read]
  | cons c cs ih =>
    obtain ⟨-, -, hlt, hcs⟩ := Memory.wf_cons hm
    simp only [Memory.write]
    split
    · next hac =>
      split
      · next hb =>
        rw [hb]
        refine Memory.read_below fun d hd => ?_
        rcases List.mem_cons.1 hd with rfl | hd
        · exact hac
        · exact Nat.lt_trans hac (hlt d hd)
      · simp [Memory.read]
    · split
      · next hac =>
        split
        · next hb => subst hac; rw [hb]; exact Memory.read_below hlt
        · simp [Memory.read]
      · next hne => simp only [Memory.read, Ne.symm hne, if_false]; exact ih hcs

/-- Which addresses a write lists. -/
theorem Memory.mem_write {m : Memory} {a : Nat} {b : Byte} {d : Host.Cell} (h : d ∈ m.write a b) : d = (a, b) ∨ d ∈ m := by
  induction m with
  | nil => simp only [Memory.write] at h; split at h <;> simp_all
  | cons c cs ih =>
    simp only [Memory.write] at h
    split at h
    · split at h
      · exact .inr h
      · rcases List.mem_cons.1 h with rfl | h
        · exact .inl rfl
        · exact .inr h
    · split at h
      · split at h
        · exact .inr (List.mem_cons_of_mem _ h)
        · rcases List.mem_cons.1 h with rfl | h
          · exact .inl rfl
          · exact .inr (List.mem_cons_of_mem _ h)
      · rcases List.mem_cons.1 h with rfl | h
        · exact .inr (List.mem_cons_self ..)
        · exact (ih h).imp_right (List.mem_cons_of_mem _)

/-- A write to a 32-bit address keeps the canonical form. -/
theorem Memory.wf_write {m : Memory} (hm : m.wf = true) {a : Nat} (ha : a < 2 ^ 32) (b : Byte) : (m.write a b).wf = true := by
  induction m with
  | nil =>
    simp only [Memory.write]
    split
    · rfl
    · next hb => exact Memory.wf_cons_of ha hb (by simp) rfl
  | cons c cs ih =>
    obtain ⟨hc, hne, hlt, hcs⟩ := Memory.wf_cons hm
    simp only [Memory.write]
    split
    · next hac =>
      split
      · exact hm
      · next hb =>
        refine Memory.wf_cons_of ha hb (fun d hd => ?_) hm
        rcases List.mem_cons.1 hd with rfl | hd
        · exact hac
        · exact Nat.lt_trans hac (hlt d hd)
    · next hac =>
      split
      · next heq =>
        split
        · exact hcs
        · next hb => exact Memory.wf_cons_of ha hb (fun d hd => heq ▸ hlt d hd) hcs
      · next hna =>
        refine Memory.wf_cons_of hc hne (fun d hd => ?_) (ih hcs)
        rcases Memory.mem_write hd with rfl | hd
        · exact Nat.lt_of_le_of_ne (Nat.le_of_not_lt hac) (Ne.symm hna)
        · exact hlt d hd

/-- MemWrite keeps the canonical form. -/
theorem State.memWrite_wf {s : State} (h : s.mem.wf = true) (a : Word) (b : Byte) : (s.memWrite a b).mem.wf = true :=
  Memory.wf_write h a.isLt b

/-- MemWrite of a free byte keeps the canonical form. -/
theorem State.memWriteAny_wf {s : State} (h : s.mem.wf = true) (a : Word) : (s.memWriteAny a).mem.wf = true :=
  Memory.wf_write h a.isLt _

/-- Right after block reset host memory has its canonical form. -/
theorem State.reset_mem_wf : State.reset.mem.wf = true := rfl

/-- Block reset keeps host memory. -/
theorem State.blockReset_wf {s : State} (h : s.mem.wf = true) : s.blockReset.mem.wf = true := h

theorem State.bytesAt_length (s : State) (a : Word) (n : Nat) : (s.bytesAt a n).length = n := by
  induction n generalizing a with
  | zero => rfl
  | succ n ih => simp [State.bytesAt, ih]

/-- The bytes read are those of host memory. -/
theorem State.bytesAt_congr {s t : State} (h : s.mem = t.mem) (a : Word) (n : Nat) : s.bytesAt a n = t.bytesAt a n := by
  induction n generalizing a with
  | zero => rfl
  | succ n ih => simp only [State.bytesAt, State.memRead, h, ih]

/-- Two MemRead loops one after the other. -/
theorem State.bytesAt_add (s : State) (a : Word) (m n : Nat) :
    s.bytesAt a (m + n) = s.bytesAt a m ++ s.bytesAt (a + BitVec.ofNat 32 m) n := by
  induction m generalizing a with
  | zero => simp [State.bytesAt]
  | succ m ih =>
    rw [Nat.succ_add, State.bytesAt, ih, State.bytesAt, List.cons_append,
      show a + 1 + BitVec.ofNat 32 m = a + BitVec.ofNat 32 (m + 1) by rw [Nat.add_comm m 1, BitVec.ofNat_add, BitVec.add_assoc]; rfl]

/-- One more byte at the end. -/
theorem State.bytesAt_succ (s : State) (a : Word) (n : Nat) :
    s.bytesAt a (n + 1) = s.bytesAt a n ++ [s.memRead (a + BitVec.ofNat 32 n)] := by rw [State.bytesAt_add]; rfl

/-- Bytes read where two states hold the same bytes are the same. -/
theorem State.bytesAt_eq {s t : State} (a : Word) (n : Nat)
    (h : ∀ i, i < n → t.memRead (a + BitVec.ofNat 32 i) = s.memRead (a + BitVec.ofNat 32 i)) : t.bytesAt a n = s.bytesAt a n := by
  induction n with
  | zero => rfl
  | succ n ih => rw [State.bytesAt_succ, State.bytesAt_succ, ih fun i hi => h i (Nat.lt_succ_of_lt hi), h n (Nat.lt_succ_self n)]

end Sys2Proof.Machine
end

