-- ==== Sys2Proof/Laws/Step.lean ====
section
/-! SUPPORT. What a step can do, said once: one lemma for each shared operation (if it answers a next state, then …), and `step_move`, the case list of a
step. -/

namespace Sys2Proof.Machine

theorem Params.sample_valid : Params.sample.valid = true := by decide +kernel

/-- The parameters after reset are legal, whatever they are (log entry 1). -/
theorem Config.params_valid : Config.params.valid = true := by
  unfold Config.params
  split
  · assumption
  · exact Params.sample_valid

/-! ### Frames -/

theorem State.frameDue_eq_some {s : State} {i : Instr} :
    s.frameDue = some i ↔ ∃ p, s.seq = .running p ∧ s.call = none ∧ s.frameAt p = some i := by
  unfold State.frameDue
  split
  · next p hs hc => simp [hs, hc]
  · next p c hs hc => simp [hc]
  · next hs => simp [hs]
  · next r hs => simp [hs]

/-- A frame answers a next state exactly where it is due. -/
theorem State.issueFrame_next {s t : State} {i : Instr} {d : CmdDesc} :
    s.issueFrame i d = .next t ↔ s.frameDue = some i ∧ t = s.callIssueCmd d := by
  unfold State.issueFrame
  split
  · next r hs => simp [State.frameDue_eq_some, hs]
  · next hs => simp [State.frameDue_eq_some, hs]
  · split
    · next h => simp [h, eq_comm]
    · next h => simp [h]

/-- A frame that is due is issued with its descriptor. -/
theorem exec_due {s : State} {i : Instr} (h : s.frameDue = some i) :
    ∃ d, frameDesc s.cfg i = some d ∧ exec i s = .next (s.callIssueCmd d) := by
  have hx : ∀ d, s.issueFrame i d = .next (s.callIssueCmd d) := fun d => State.issueFrame_next.2 ⟨h, rfl⟩
  obtain ⟨p, -, -, hp⟩ := State.frameDue_eq_some.1 h
  have hport : i.port = .cmd := by
    cases p <;> simp [State.frameAt, State.quadReadFrame, State.programFrame, State.sectorFrame] at hp <;>
      first
      | (subst hp; rfl)
      | (subst hp; split <;> rfl)
  cases i <;> first | (exfalso; cases hport; done) | exact ⟨_, rfl, hx _⟩

/-- A frame that answers a next state was due, and is the IssueCmd of its descriptor. -/
theorem exec_frame_next {s t : State} {i : Instr} (hport : i.port = .cmd) (h : exec i s = .next t) :
    s.frameDue = some i ∧ ∃ d, frameDesc s.cfg i = some d ∧ t = s.callIssueCmd d := by
  cases i <;> first
    | (exfalso; cases hport; done)
    | exact ⟨(State.issueFrame_next.1 h).1, _, rfl, (State.issueFrame_next.1 h).2⟩

/-! ### Requests -/

/-- Where a request's program starts (spec/30 R111, spec/60 R320 step 5). -/
def startOf : Instr → Pos
  | .init => .gateWren .init
  | .read => .readCmd
  | .write => .writeCur
  | .erase => .eraseCur
  | .eraseChip => .gateWren .chip
  | .getStatus => .statusCmd
  | .getGeometry => .finish .getGeometry .ok
  | .enterMm => .mapCfg
  | .enter4b => .enter4bEn4b
  | .wren | .rsten | .rstmem | .en4b | .rdsr | .pp3 _ _ | .pp4 _ _ | .qfr3 _ _ | .qfr4 _ _ | .se3 _ | .se4 _ | .ce =>
    .finish .getGeometry .ok

/-- Step 4 of R320 for a request. -/
def State.operandFault (s : State) : Instr → Option Fault
  | .read | .write => s.transferFault
  | .erase => s.eraseFault
  | _ => none

/-- Acceptance: a model fault that changes SEQ only, or R320 step 5. -/
theorem State.present_next {s t : State} {i : Instr} {p : Pos} {inMm : Bool} {check : Option Fault}
    (h : s.present i p inMm check = .next t) :
    (∀ r, s.seq ≠ .faulted r) ∧ ((∃ r, t = { s with seq := .faulted r }) ∨
      (s.stat.busy = false ∧ (s.stat.mmap = false ∨ inMm = true) ∧ check = none ∧ t = s.accept i p)) := by
  unfold State.present at h
  have hs : ∀ r, s.seq ≠ .faulted r := by
    intro r hr
    simp only [hr] at h
    cases h
  refine ⟨hs, ?_⟩
  split at h
  · next r hr => exact absurd hr (hs r)
  all_goals
    split at h
    · cases h; exact .inl ⟨_, rfl⟩
    · next hb =>
      split at h
      · cases h; exact .inl ⟨_, rfl⟩
      · next hm =>
        split at h
        · cases h; exact .inl ⟨_, rfl⟩
        · cases h
          refine .inr ⟨by simpa using hb, ?_, rfl, rfl⟩
          revert hm; cases s.stat.mmap <;> cases inMm <;> simp

/-- A request's meaning is its acceptance, with its own start, its own operand check, and MM mode open to GET_GEOMETRY only. -/
theorem exec_request {i : Instr} (hport : i.port = .req) (s : State) :
    exec i s = s.present i (startOf i) (i == .getGeometry) (s.operandFault i) := by
  cases i <;> first | rfl | cases hport

/-- A request's meaning: a model fault that changes SEQ only, or the acceptance of the request. -/
theorem exec_request_next {s t : State} {i : Instr} (hport : i.port = .req) (h : exec i s = .next t) :
    (∀ r, s.seq ≠ .faulted r) ∧ ((∃ r, t = { s with seq := .faulted r }) ∨
      (s.stat.busy = false ∧ (s.stat.mmap = false ∨ i = .getGeometry) ∧ s.operandFault i = none ∧ t = s.accept i (startOf i))) := by
  rw [exec_request hport] at h
  obtain ⟨h1, h2⟩ := State.present_next h
  exact ⟨h1, h2.imp_right fun ⟨hb, hm, hc, ht⟩ => ⟨hb, hm.imp_right beq_iff_eq.1, hc, ht⟩⟩

/-- A legal REQ word decodes to a request. -/
theorem decodeRequest_port {w : Word} {i : Instr} (h : decodeRequest w = .ok i) : i.port = .req ∧ requestWord i = w := by
  unfold decodeRequest at h
  split at h <;> first
    | (cases h; rename_i hw; exact ⟨rfl, BitVec.eq_of_toNat_eq (by rw [hw]; rfl)⟩)
    | cases h

/-! ### One step -/

/-- An event of the host's own reads, nothing the transport sees. -/
def Event.ofHost : Event → Bool
  | .regRead _ _ | .windowRead _ _ _ | .hostLoad _ _ => true
  | .call _ | .answer _ | .memRead _ _ | .memWrite _ _ => false

/-- What one step of an agent can do to a state that is not faulted. -/
inductive Move (s : State) : State → Prop
  /-- nothing to do -/
  | stay : Move s s
  /-- the sequencer issues the frame that is due -/
  | issue (p : Pos) (i : Instr) (d : CmdDesc) (hs : s.seq = .running p) (hc : s.call = none) (hi : s.frameAt p = some i)
      (hd : frameDesc s.cfg i = some d) : Move s (s.callIssueCmd d)
  /-- the sequencer performs another statement -/
  | perform (p : Pos) (hs : s.seq = .running p) (hc : s.call = none) (hi : s.frameAt p = none) : Move s (s.perform p)
  /-- the transport answers -/
  | answer (p : Pos) (c : Call) (a : Answer) (rest : List Answer) (hs : s.seq = .running p) (hc : s.call = some c)
      (ht : s.transport = a :: rest) (ha : admits c a = true) :
      Move s (State.answered p a { s with transport := rest })
  /-- a host access raises a model fault -/
  | fault (r : Fault) (host : List HostOp) : Move s { s with host := host, seq := .faulted r }
  /-- a request is accepted -/
  | accept (i : Instr) (host : List HostOp) (hport : i.port = .req) (hb : s.stat.busy = false)
      (hm : s.stat.mmap = false ∨ i = .getGeometry) (hf : s.operandFault i = none) :
      Move s (State.accept i (startOf i) { s with host := host })
  /-- an illegal request word completes -/
  | illegal (host : List HostOp) (hb : s.stat.busy = false) : Move s (State.illegalWord { s with host := host })
  /-- a write to an ARG register -/
  | arg (args : Args) (host : List HostOp) : Move s { s with host := host, args := args }
  /-- a read of the host -/
  | observe (e : Event) (host : List HostOp) (he : e.ofHost = true) : Move s { s with host := host, trace := s.trace ++ [e] }
  /-- a store of the host to its own memory -/
  | store (a : Word) (b : Byte) (host : List HostOp) (hb : s.bufferBusy a = false) :
      Move s { s with host := host, mem := s.mem.write a.toNat b }

theorem State.operandFault_host (s : State) (host : List HostOp) (i : Instr) :
    State.operandFault { s with host := host } i = s.operandFault i := by cases i <;> rfl

theorem State.hostReqWrite_move {s t : State} {w : Word} {host : List HostOp}
    (h : State.hostReqWrite w { s with host := host } = .next t) : Move s t := by
  unfold State.hostReqWrite at h
  split at h
  · cases h; exact .fault _ _
  · next hb =>
    split at h
    · cases h; exact .illegal _ (by simpa using hb)
    · next i hi =>
      obtain ⟨-, ⟨r, ht⟩ | ⟨hb, hm, hf, ht⟩⟩ := exec_request_next (decodeRequest_port hi).1 h
      · subst ht; exact .fault _ _
      · subst ht; exact .accept i host (decodeRequest_port hi).1 hb hm (by rw [State.operandFault_host] at hf; exact hf)

/-- A window read of the host. -/
theorem State.hostWindowRead_move {s t : State} {a : Word} {n : Nat} {host : List HostOp}
    (h : State.hostWindowRead a n { s with host := host } = .next t) : Move s t := by
  unfold State.hostWindowRead at h
  dsimp only at h
  split at h
  · split at h
    · cases h; exact .observe _ _ rfl
    · cases h; exact .fault _ _
  · cases h; exact .fault _ _

/-- The host's step. -/
theorem State.hostTurn_move {s t : State} (h : s.hostTurn = .next t) : Move s t := by
  unfold State.hostTurn at h
  split at h
  · cases h; exact .stay
  · next rest _ =>
    cases h
    unfold State.hostWait
    split
    · exact .observe _ s.host rfl
    · exact .observe _ rest rfl
  · unfold State.hostRegWrite at h
    split at h
    · exact State.hostReqWrite_move h
    · next r _ _ =>
      cases r <;> cases h <;> first | exact .arg _ _ | exact .fault _ _
    · cases h; exact .fault _ _
  · unfold State.hostRegRead at h
    split at h
    · cases h; exact .observe _ _ rfl
    · cases h; exact .fault _ _
  · exact State.hostWindowRead_move h
  · cases h; exact .fault _ _
  · unfold State.hostStore at h
    split at h
    · cases h; exact .fault _ _
    · split at h
      · cases h; exact .fault _ _
      · split at h
        · cases h
        · next hb => cases h; exact .store _ _ _ (by simpa [State.bufferBusy] using hb)
  · unfold State.hostLoad at h
    split at h
    · cases h; exact .fault _ _
    · split at h
      · exact State.hostWindowRead_move h
      · split at h
        · cases h
        · cases h; exact .observe _ _ rfl

/-- The sequencer's step. -/
theorem State.sequencerTurn_move {s t : State} (h : s.sequencerTurn = .next t) : Move s t := by
  unfold State.sequencerTurn at h
  split at h
  · next p hs hc =>
    split at h
    · next i hi =>
      obtain ⟨q, hq, -, hf⟩ := State.frameDue_eq_some.1 hi
      obtain ⟨d, hd, he⟩ := exec_due hi
      rw [he] at h
      cases h
      exact .issue q i d hq hc hf hd
    · next hi =>
      cases h
      refine .perform p hs hc ?_
      cases hf : s.frameAt p with
      | none => rfl
      | some i => rw [State.frameDue_eq_some.2 ⟨p, hs, hc, hf⟩] at hi; cases hi
  · cases h; exact .stay
  · cases h; exact .stay
  · cases h

/-- The transport's step. -/
theorem State.transportTurn_move {s t : State} (h : s.transportTurn = .next t) : Move s t := by
  unfold State.transportTurn at h
  split at h
  · next p c a rest hs hc ht =>
    split at h
    · next ha => cases h; exact .answer p c a rest hs hc ht ha
    · cases h
  · cases h; exact .stay
  · cases h; exact .stay
  · cases h; exact .stay
  · cases h

/-- A step uses up a turn and is block reset, or a move of an agent in a state that is not faulted. -/
theorem step_move {s t : State} (h : step s = .next t) :
    ∃ ts, (s.takeTurn.1 = .blockReset ∧ t = State.blockReset { s with turns := ts }) ∨
      (s.takeTurn.1 ≠ .blockReset ∧ (∀ r, s.seq ≠ .faulted r) ∧ Move { s with turns := ts } t) := by
  have h2 : ∃ ts, s.takeTurn.2 = { s with turns := ts } := by
    unfold State.takeTurn
    split
    · exact ⟨_, rfl⟩
    · exact ⟨s.turns, rfl⟩
  obtain ⟨ts, hts⟩ := h2
  refine ⟨ts, ?_⟩
  unfold step at h
  rw [hts] at h
  generalize s.takeTurn.1 = u at h
  cases u with
  | blockReset => cases h; exact .inl ⟨rfl, rfl⟩
  | host =>
    have hs : ∀ r, s.seq ≠ .faulted r := fun r hr => by simp [State.runTurn, hr] at h
    refine .inr ⟨by decide, hs, ?_⟩
    simp only [State.runTurn] at h
    split at h
    · cases h
    all_goals exact State.hostTurn_move h
  | sequencer =>
    refine .inr ⟨by decide, fun r hr => ?_, State.sequencerTurn_move h⟩
    simp [State.runTurn, State.sequencerTurn, hr] at h
  | transport =>
    refine .inr ⟨by decide, fun r hr => ?_, State.transportTurn_move h⟩
    simp [State.runTurn, State.transportTurn, hr] at h

end Sys2Proof.Machine
end

