-- ==== Sys2Proof/Laws/Accept.lean ====
section
/-! SUPPORT. Acceptance and the turns, as equations: what a REQ write answers in each case of spec/60 R320, and the step of each agent. -/

namespace Sys2Proof.Machine

/-- Steps 4 and 5 of R320, when no request runs and the mode admits the request. -/
theorem State.present_ok {s : State} {i : Instr} {p : Pos} {b : Bool} (hf : ∀ r, s.seq ≠ .faulted r) (hb : s.stat.busy = false)
    (hm : s.stat.mmap = false ∨ b = true) (c : Option Fault) :
    s.present i p b c = match c with
      | some r => s.raise r
      | none => .next (s.accept i p) := by
  unfold State.present
  cases hs : s.seq with
  | faulted r => exact absurd hs (hf r)
  | idle | running _ => rcases hm with hm | hm <;> cases c <;> simp [hb, hm]

/-- Step 3 of R320: in MM mode. -/
theorem State.present_mm {s : State} {i : Instr} {p : Pos} {c : Option Fault} (hf : ∀ r, s.seq ≠ .faulted r)
    (hb : s.stat.busy = false) (hm : s.stat.mmap = true) : s.present i p false c = s.raise .reqInMemoryMapped := by
  unfold State.present
  cases hs : s.seq with
  | faulted r => exact absurd hs (hf r)
  | idle | running _ => simp [hb, hm]

/-- Step 1 of R320: while a request runs. -/
theorem State.present_busy {s : State} {i : Instr} {p : Pos} {b : Bool} {c : Option Fault} (hf : ∀ r, s.seq ≠ .faulted r)
    (hb : s.stat.busy = true) : s.present i p b c = s.raise .reqWhileBusy := by
  unfold State.present
  cases hs : s.seq with
  | faulted r => exact absurd hs (hf r)
  | idle | running _ => simp [hb]

theorem Params.bufferOk_iff (p : Params) (a n : Nat) : p.bufferOk a n = true ↔ ∀ j, j < n → p.hostMemOk (a + j) = true := by
  induction n with
  | zero => simp [Params.bufferOk]
  | succ n ih =>
    simp only [Params.bufferOk, Bool.and_eq_true, ih]
    refine ⟨fun ⟨h1, h2⟩ j hj => ?_, fun h => ⟨fun j hj => h j (by omega), h n (by omega)⟩⟩
    rcases Nat.lt_succ_iff_lt_or_eq.1 hj with h | rfl
    · exact h1 j h
    · exact h2

/-- R320 step 4 passes for READ and WRITE. -/
theorem State.transferFault_none {s : State} : s.transferFault = none ↔ s.transferArgsOk := by
  simp only [State.transferFault, State.transferArgsOk, ← Params.bufferOk_iff]
  split
  · next h => simp only [reduceCtorEq, false_iff]; intro hk; exact h ⟨hk.1, hk.2.1⟩
  · next h =>
    split
    · next h2 => simp only [reduceCtorEq, false_iff]; intro hk; exact h2.2 (hk.2.2.1 h2.1)
    · next h2 =>
      split
      · next h3 => simp only [reduceCtorEq, false_iff]; intro hk; exact h3 ⟨hk.2.2.2.1, hk.2.2.2.2⟩
      · next h3 =>
        simp only [Decidable.not_not] at h h3
        simp only [true_iff]
        exact ⟨h.1, h.2, fun ha => Decidable.not_not.1 fun hc => h2 ⟨ha, hc⟩, h3.1, h3.2⟩

/-- R320 step 4 passes for ERASE_SECTOR_RANGE. -/
theorem State.eraseFault_none {s : State} : s.eraseFault = none ↔ s.eraseArgsOk := by
  simp only [State.eraseFault, State.eraseArgsOk]
  split
  · next h => simp only [reduceCtorEq, false_iff]; omega
  · next h =>
    split
    · next h2 => simp only [reduceCtorEq, false_iff]; omega
    · next h2 =>
      split
      · next h3 => simp only [reduceCtorEq, false_iff]; intro hk; have := hk.2.2 h3.1; omega
      · next h3 => simp only [true_iff]; exact ⟨by omega, by omega, fun ha => Nat.lt_of_not_le fun hc => h3 ⟨ha, hc⟩⟩

/-! ### The step of each agent -/

theorem step_host {s : State} {ts : List Turn} (ht : s.turns = .host :: ts) (hf : ∀ r, s.seq ≠ .faulted r) :
    step s = State.hostTurn { s with turns := ts } := by
  simp only [step, State.takeTurn, ht, State.runTurn]
  cases hs : s.seq with
  | faulted r => exact absurd hs (hf r)
  | idle | running _ => rfl

theorem step_transport {s : State} {ts : List Turn} {p : Pos} {c : Call} {a : Answer} {rest : List Answer}
    (ht : s.turns = .transport :: ts) (hs : s.seq = .running p) (hc : s.call = some c) (hr : s.transport = a :: rest)
    (ha : admits c a = true) :
    step s = .next (State.answered p a { s with turns := ts, transport := rest }) := by
  simp only [step, State.takeTurn, ht, State.runTurn, State.transportTurn, hs, hc, hr, ha, if_true]

/-- By default the sequencer moves while it can: it issues the frame that is due. -/
theorem step_issue {s : State} {p : Pos} {i : Instr} {d : CmdDesc} (ht : s.turns = []) (hs : s.seq = .running p)
    (hc : s.call = none) (hi : s.frameAt p = some i) (hd : frameDesc s.cfg i = some d) :
    step s = .next (s.callIssueCmd d) := by
  have hdue := State.frameDue_eq_some.2 ⟨p, hs, hc, hi⟩
  obtain ⟨e, he, hx⟩ := exec_due hdue
  rw [hd] at he
  cases he
  simp only [step, State.takeTurn, ht, State.defaultTurn, State.runTurn, State.sequencerTurn, hs, hc, hdue, hx]

/-- The sequencer performs the statement at its position, where that is no IssueCmd. -/
theorem State.sequencerTurn_perform {s : State} {p : Pos} (hs : s.seq = .running p) (hc : s.call = none) (hi : s.frameAt p = none) :
    s.sequencerTurn = .next (s.perform p) := by
  have hdue : s.frameDue = none := by simp only [State.frameDue, hs, hc, hi]
  simp only [State.sequencerTurn, hs, hc, hdue]

/-- The sequencer's turn at a statement that is no IssueCmd. -/
theorem step_sequencer {s : State} {ts : List Turn} {p : Pos} (ht : s.turns = .sequencer :: ts) (hs : s.seq = .running p)
    (hc : s.call = none) (hi : s.frameAt p = none) : step s = .next (State.perform { s with turns := ts } p) := by
  simp only [step, State.takeTurn, ht, State.runTurn]
  exact State.sequencerTurn_perform hs hc hi

/-- By default the sequencer moves while it can: it performs the statement at its position. -/
theorem step_perform {s : State} {p : Pos} (ht : s.turns = []) (hs : s.seq = .running p) (hc : s.call = none)
    (hi : s.frameAt p = none) : step s = .next (s.perform p) := by
  rw [← State.sequencerTurn_perform hs hc hi]
  simp only [step, State.takeTurn, ht, State.defaultTurn, State.runTurn, hs, hc]

/-- By default the transport moves while a call is outstanding and it has an answer. -/
theorem step_answer {s : State} {p : Pos} {c : Call} {a : Answer} {rest : List Answer} (ht : s.turns = [])
    (hs : s.seq = .running p) (hc : s.call = some c) (hr : s.transport = a :: rest) (ha : admits c a = true) :
    step s = .next (State.answered p a { s with transport := rest }) := by
  simp only [step, State.takeTurn, ht, State.defaultTurn, State.runTurn, State.transportTurn, hs, hc, hr, ha, if_true]

/-- By default the host moves while no request runs: its write of a legal word to REQ is the request's exec. -/
theorem step_request {s : State} {w : Word} {i : Instr} {rest : List HostOp} (ht : s.turns = []) (hs : s.seq = .idle)
    (hh : s.host = wr .req w :: rest) (hb : s.stat.busy = false) (hd : decodeRequest w = .ok i) :
    step s = exec i { s with host := rest } := by
  have h1 : step s = State.hostReqWrite w { s with host := rest } := by
    simp only [step, State.takeTurn, ht, State.defaultTurn, State.runTurn, hs, State.hostTurn, hh, wr]
    rfl
  rw [h1]
  simp [State.hostReqWrite, hb, hd]

/-! ### Runs -/

theorem coreRun_succ (M : Host.Core) {s t : M.State} (n : Nat) (h : M.step s = .next t) : M.run (n + 1) s = M.run n t := by
  simp only [Host.Core.run, h]

theorem coreRun_add (M : Host.Core) {s t : M.State} (m n : Nat) (h : M.run m s = .next t) : M.run (m + n) s = M.run n t := by
  induction m generalizing s with
  | zero => rw [Nat.zero_add]; cases h; rfl
  | succ m ih =>
    simp only [Host.Core.run] at h
    split at h
    · next u hu => rw [Nat.succ_add, coreRun_succ M _ hu]; exact ih h
    · cases h
    · cases h

theorem run_zero (s : State) : Host.Core.run Sys2Proof.core 0 s = .next s := rfl

theorem run_succ {s t : State} (n : Nat) (h : step s = .next t) :
    Host.Core.run Sys2Proof.core (n + 1) s = Host.Core.run Sys2Proof.core n t := coreRun_succ Sys2Proof.core n h

theorem run_add {s t : State} (m n : Nat) (h : Host.Core.run Sys2Proof.core m s = .next t) :
    Host.Core.run Sys2Proof.core (m + n) s = Host.Core.run Sys2Proof.core n t := coreRun_add Sys2Proof.core m n h

end Sys2Proof.Machine
end

