-- ==== Sys2Proof/Laws/Trace.lean ====
section
/-! SUPPORT. What the observers of the trace say of a longer trace and of an exchange of calls and answers. -/

namespace Sys2Proof.Machine

theorem busEvents_append (es fs : List Event) : busEvents (es ++ fs) = busEvents es ++ busEvents fs := by
  induction es with
  | nil => rfl
  | cons e es ih => cases e <;> simp [busEvents, ih]

theorem frames_append (es fs : List Event) : frames (es ++ fs) = frames es ++ frames fs := by
  induction es with
  | nil => rfl
  | cons e es ih =>
    cases e with
    | call c => cases c <;> simp [frames, ih]
    | _ => simpa [frames] using ih

theorem sentBytes_append (es fs : List Event) : sentBytes (es ++ fs) = sentBytes es ++ sentBytes fs := by
  induction es with
  | nil => rfl
  | cons e es ih =>
    cases e with
    | call c => cases c <;> simp [sentBytes, ih]
    | _ => simpa [sentBytes] using ih

theorem exchange_append (xs ys : List (Call × Answer)) : exchange (xs ++ ys) = exchange xs ++ exchange ys := by
  induction xs with
  | nil => rfl
  | cons x xs ih => simp [exchange, ih]

/-- Everything in an exchange passes between THE CORE and the transport. -/
theorem busEvents_exchange (xs : List (Call × Answer)) : busEvents (exchange xs) = exchange xs := by
  induction xs with
  | nil => rfl
  | cons x xs ih => simp [exchange, busEvents, ih]

/-- The calls of an exchange that are frames, and the bytes it sends. -/
theorem frames_exchange (xs : List (Call × Answer)) :
    frames (exchange xs) = xs.filterMap fun x => match x.1 with
      | .issueCmd d => some d
      | .txData _ | .rxData _ | .autoPoll _ _ _ | .memMapCfg _ _ => none := by
  induction xs with
  | nil => rfl
  | cons x xs ih =>
    obtain ⟨c, a⟩ := x
    cases c <;> simp [exchange, frames, ih]

/-- What passes between THE CORE and the transport decides the frames and the bytes sent. -/
theorem frames_busEvents (es : List Event) : frames (busEvents es) = frames es := by
  induction es with
  | nil => rfl
  | cons e es ih =>
    cases e with
    | call c => cases c <;> simp [busEvents, frames, ih]
    | _ => simp [busEvents, frames, ih]

theorem sentBytes_busEvents (es : List Event) : sentBytes (busEvents es) = sentBytes es := by
  induction es with
  | nil => rfl
  | cons e es ih =>
    cases e with
    | call c => cases c <;> simp [busEvents, sentBytes, ih]
    | _ => simp [busEvents, sentBytes, ih]

theorem exchange_length (xs : List (Call × Answer)) : (exchange xs).length = 2 * xs.length := by
  induction xs with
  | nil => rfl
  | cons x xs ih => simp [exchange, ih]; omega

end Sys2Proof.Machine
end

