-- ==== Sys2Proof/Laws/Blocks.lean ====
section
/-! SUPPORT. A request's run by blocks, while the agents move by default: a transport call and its answer, the write-enable gate, the loops over
single bytes, one chunk of a WRITE and one sector of an erase. -/

namespace Sys2Proof.Machine

theorem run_via {s t : State} {u : Result} (n : Nat) (h : step s = .next t) (h2 : Host.Core.run Sys2Proof.core n t = u) :
    Host.Core.run Sys2Proof.core (n + 1) s = u := (run_succ n h).trans h2

theorem run_then {s t : State} {u : Result} (m n : Nat) (h : Host.Core.run Sys2Proof.core m s = .next t)
    (h2 : Host.Core.run Sys2Proof.core n t = u) : Host.Core.run Sys2Proof.core (m + n) s = u := (run_add m n h).trans h2

/-- The write of a request's word is its acceptance. -/
theorem step_accept {s : State} {w : Word} {rest : List HostOp} {answers : List Answer} {i : Instr}
    (h : s.presents w rest answers) (hd : decodeRequest w = .ok i) (hop : s.operandFault i = none) :
    step s = .next (State.accept i (startOf i) { s with host := rest }) := by
  obtain ⟨ht, hh, -, hs, -, hb, hm⟩ := h
  rw [step_request ht hs hh hb hd]
  have hf : ∀ r, State.seq { s with host := rest } ≠ .faulted r := fun r hr => by rw [hs] at hr; cases hr
  rw [exec_request (decodeRequest_port hd).1, State.operandFault_host, hop]
  exact State.present_ok hf hb (.inl hm) none

/-- Where a program goes on depends on the latched operands and the cursors alone. -/
theorem State.after_congr {s t : State} (hl : t.latch = s.latch) (hc : t.cursor = s.cursor) (a : Answer) (p : Pos) :
    t.after a p = s.after a p := by
  cases p <;> simp only [State.after, State.readAnyFrom, State.writeReadFrom, hl, hc]

theorem State.answered_at {s : State} {p q : Pos} {a : Answer} (hq : s.after a p = q) :
    s.answered p a = { s with call := none, trace := s.trace ++ [.answer a], seq := .running q } := by
  subst hq
  rfl

/-- The transport's answer, with the position the program goes on at. -/
theorem step_answered {s : State} {p q : Pos} {c : Call} {a : Answer} {rest : List Answer} (ht : s.turns = [])
    (hs : s.seq = .running p) (hc : s.call = some c) (hr : s.transport = a :: rest) (ha : admits c a = true) (hq : s.after a p = q) :
    step s = .next { s with seq := .running q, call := none, transport := rest, trace := s.trace ++ [.answer a] } :=
  (step_answer ht hs hc hr ha).trans (congrArg _ (State.answered_at ((State.after_congr rfl rfl a p).trans hq)))

/-- An IssueCmd and its answer. -/
theorem run_frame {s : State} {p q : Pos} {i : Instr} {d : CmdDesc} {a : Answer} {rest : List Answer} (ht : s.turns = [])
    (hs : s.seq = .running p) (hc : s.call = none) (hi : s.frameAt p = some i) (hd : frameDesc s.cfg i = some d)
    (hr : s.transport = a :: rest) (ha : admits (.issueCmd d) a = true) (hq : s.after a p = q) :
    Host.Core.run Sys2Proof.core 2 s = .next
      { s with
        seq := .running q, cmdDesc := cmdRegs d, transport := rest
        trace := s.trace ++ exchange [(.issueCmd d, a)] } := by
  refine run_via 1 (step_issue ht hs hc hi hd) (run_via 0 (step_answered (s := s.callIssueCmd d) ht hs rfl hr ha
      ((State.after_congr rfl rfl a p).trans hq)) ?_)
  rw [run_zero]
  simp only [State.callIssueCmd, State.placeCall, exchange, List.append_assoc, List.cons_append, List.nil_append, ← hc]

/-- An auto-poll and its answer. -/
theorem run_poll {s : State} {p p' : Pos} {q : PollDesc} {c : PollClass} {a : Answer} {rest : List Answer} (ht : s.turns = [])
    (hs : s.seq = .running p) (hc : s.call = none) (hi : s.frameAt p = none) (hp : s.perform p = s.callAutoPoll q c)
    (hr : s.transport = a :: rest) (ha : admits (.autoPoll (statusDesc s.cfg.cmdRdsr) q c) a = true)
    (hq : s.after a p = p') :
    Host.Core.run Sys2Proof.core 2 s = .next
      { s with
        seq := .running p', cmdDesc := cmdRegs (statusDesc s.cfg.cmdRdsr), pollDesc := pollRegs q, pollClass := c.bits
        transport := rest, trace := s.trace ++ exchange [(.autoPoll (statusDesc s.cfg.cmdRdsr) q c, a)] } := by
  refine run_via 1 ((step_perform ht hs hc hi).trans (by rw [hp]))
    (run_via 0 (step_answered (s := s.callAutoPoll q c) ht hs rfl hr ha
      ((State.after_congr rfl rfl a p).trans hq)) ?_)
  rw [run_zero]
  simp only [State.callAutoPoll, State.placeCall, exchange, List.append_assoc, List.cons_append, List.nil_append, State.desc, ← hc]

/-- A call that builds no descriptor (RxData, TxData), and its answer. -/
theorem run_data {s : State} {p q : Pos} {c : Call} {a : Answer} {rest : List Answer} (ht : s.turns = [])
    (hs : s.seq = .running p) (hc : s.call = none) (hi : s.frameAt p = none) (hp : s.perform p = s.placeCall c)
    (hr : s.transport = a :: rest) (ha : admits c a = true) (hq : s.after a p = q) :
    Host.Core.run Sys2Proof.core 2 s = .next
      { s with seq := .running q, transport := rest, trace := s.trace ++ exchange [(c, a)] } := by
  refine run_via 1 ((step_perform ht hs hc hi).trans (by rw [hp]))
    (run_via 0 (step_answered (s := s.placeCall c) ht hs rfl hr ha
      ((State.after_congr rfl rfl a p).trans hq)) ?_)
  rw [run_zero]
  simp only [State.placeCall, exchange, List.append_assoc, List.cons_append, List.nil_append, ← hc]

/-- A successful write-enable gate (spec/41 R180). -/
theorem run_gate {s : State} {u : GateUser} {w : List Byte} {rest : List Answer} (ht : s.turns = [])
    (hs : s.seq = .running (.gateWren u)) (hc : s.call = none) (hr : s.transport = .ok :: .matched w :: rest)
    (hw : matchedSamples (welPoll s.cfg) w = true) :
    Host.Core.run Sys2Proof.core 4 s = .next
      { s with
        seq := .running (gateReturn u), cmdDesc := cmdRegs (statusDesc s.cfg.cmdRdsr), pollDesc := pollRegs (welPoll s.cfg)
        pollClass := PollClass.we.bits, transport := rest, trace := s.trace ++ exchange (gateCalls s.cfg w) } := by
  refine run_then 2 2 (run_frame (i := .wren) ht hs hc rfl rfl hr rfl rfl) ?_
  refine Eq.trans (run_poll (p := .gateWel u) (q := welPoll s.cfg) (c := .we) ht rfl hc rfl rfl rfl hw rfl) ?_
  simp only [exchange, List.append_assoc, gateCalls]
  rfl

/-! ### The loops over single bytes -/

/-- READ's loop of MemWrites: each byte received, to increasing addresses, and nothing on the bus (spec/44 R241). -/
theorem run_store (bs : List Byte) {s : State} (i : Nat) (ht : s.turns = []) (hs : s.seq = .running (readStoreFrom i bs))
    (hc : s.call = none) (hm : s.mem.wf = true) (hw : s.latch.a2.toNat + i + bs.length ≤ 2 ^ 32) :
    ∃ m es, Host.Core.run Sys2Proof.core bs.length s = .next
        { s with seq := .running (.finish .read .ok), mem := m, trace := s.trace ++ es } ∧ busEvents es = [] ∧
      (∀ j, j < bs.length → bs[j]? = some (m.read (s.latch.a2.toNat + i + j))) ∧
      ∀ x, x < s.latch.a2.toNat + i ∨ s.latch.a2.toNat + i + bs.length ≤ x → m.read x = s.mem.read x := by
  induction bs generalizing s i with
  | nil =>
    refine ⟨s.mem, [], ?_, rfl, by simp, fun _ _ => rfl⟩
    rw [List.length_nil, run_zero, List.append_nil, show Pos.finish .read .ok = readStoreFrom i [] from rfl, ← hs]
  | cons b bs ih =>
    simp only [List.length_cons] at hw ⊢
    have ha : (s.latch.a2 + BitVec.ofNat 32 i).toNat = s.latch.a2.toNat + i := by
      rw [BitVec.toNat_add, BitVec.toNat_ofNat]; omega
    obtain ⟨m, es, h1, h2, h3, h4⟩ := ih
      (s := (s.memWrite (s.latch.a2 + BitVec.ofNat 32 i) b).goto (readStoreFrom (i + 1) bs)) (i + 1) ht rfl hc
      (State.memWrite_wf hm _ _) (by simp only [State.goto_latch, State.memWrite_latch]; omega)
    simp only [State.goto_latch, State.memWrite_latch, State.goto_mem, State.memWrite_mem, ha] at h1 h3 h4
    refine ⟨m, .memWrite (s.latch.a2 + BitVec.ofNat 32 i) b :: es, ?_, h2, fun j hj => ?_, fun x hx => ?_⟩
    · refine run_via _ (step_perform ht hs hc rfl) (h1.trans ?_)
      simp only [State.goto, State.memWrite, List.append_assoc, List.cons_append, List.nil_append]
    · cases j with
      | zero =>
        rw [h4 _ (by omega), Nat.add_zero, Memory.read_write_same hm]
        rfl
      | succ j =>
        rw [List.getElem?_cons_succ, h3 j (by omega), show s.latch.a2.toNat + (i + 1) + j = s.latch.a2.toNat + i + (j + 1) by omega]
    · rw [h4 x (by omega), Memory.read_write_other _ _ (by omega)]

/-- READ's loop of MemWrites of free bytes (spec/44 R241). -/
theorem run_any (n : Nat) {s : State} (i : Nat) (ht : s.turns = []) (hs : s.seq = .running (s.readAnyFrom i)) (hc : s.call = none)
    (hm : s.mem.wf = true) (hn : i + n = s.latch.a1.toNat) (hw : s.latch.a2.toNat + s.latch.a1.toNat ≤ 2 ^ 32) :
    ∃ m es, Host.Core.run Sys2Proof.core n s = .next
        { s with
          seq := .running (.finish .read .transportError), mem := m, trace := s.trace ++ es, fresh := s.fresh + n } ∧
      busEvents es = [] ∧ (∀ j, j < n → m.read (s.latch.a2.toNat + i + j) = Config.freeByte (s.fresh + j)) ∧
      ∀ x, x < s.latch.a2.toNat + i ∨ s.latch.a2.toNat + i + n ≤ x → m.read x = s.mem.read x := by
  induction n generalizing s i with
  | zero =>
    have hp : s.readAnyFrom i = .finish .read .transportError := by unfold State.readAnyFrom; rw [if_neg (by omega)]
    refine ⟨s.mem, [], ?_, rfl, by simp, fun _ _ => rfl⟩
    rw [run_zero, List.append_nil, Nat.add_zero, ← hp, ← hs]
  | succ n ih =>
    have hp : s.readAnyFrom i = .readAny i := by unfold State.readAnyFrom; rw [if_pos (by omega)]
    rw [hp] at hs
    have ha : (s.latch.a2 + BitVec.ofNat 32 i).toNat = s.latch.a2.toNat + i := by
      rw [BitVec.toNat_add, BitVec.toNat_ofNat]; omega
    obtain ⟨m, es, h1, h2, h3, h4⟩ := ih
      (s := (s.memWriteAny (s.latch.a2 + BitVec.ofNat 32 i)).goto (s.readAnyFrom (i + 1))) (i + 1) ht rfl hc
      (State.memWriteAny_wf hm _) (by simp only [State.goto_latch, State.memWriteAny_latch]; omega) hw
    simp only [State.goto_latch, State.memWriteAny_latch, State.goto_mem, State.memWriteAny_mem, State.goto_fresh,
      State.memWriteAny_fresh, ha] at h1 h3 h4
    refine ⟨m, .memWrite (s.latch.a2 + BitVec.ofNat 32 i) (Config.freeByte s.fresh) :: es, ?_, h2, fun j hj => ?_, fun x hx => ?_⟩
    · refine run_via _ (step_perform ht hs hc rfl) (h1.trans ?_)
      simp only [State.goto, State.memWriteAny, State.memWrite, List.append_assoc, List.cons_append, List.nil_append]
      rw [show s.fresh + 1 + n = s.fresh + (n + 1) by omega]
    · cases j with
      | zero => rw [h4 _ (by omega), Nat.add_zero, Memory.read_write_same hm, Nat.add_zero]
      | succ j =>
        rw [show s.latch.a2.toNat + i + (j + 1) = s.latch.a2.toNat + (i + 1) + j by omega, h3 j (by omega),
          show s.fresh + 1 + j = s.fresh + (j + 1) by omega]
    · rw [h4 x (by omega), Memory.read_write_other _ _ (by omega)]

/-- WRITE's loop of MemReads: the rest of the chunk's source, and nothing on the bus (spec/44 R250, R252). -/
theorem run_fetch (n : Nat) {s : State} (got : List Byte) (ht : s.turns = []) (hs : s.seq = .running (s.writeReadFrom got))
    (hc : s.call = none) (hn : got.length + n = s.cursor.chunk.toNat) :
    ∃ es, Host.Core.run Sys2Proof.core n s = .next
        { s with seq := .running (.writeData (got ++ s.bytesAt (s.sourceAddr got.length) n)), trace := s.trace ++ es } ∧
      busEvents es = [] := by
  induction n generalizing s got with
  | zero =>
    have hp : s.writeReadFrom got = .writeData got := by unfold State.writeReadFrom; rw [if_neg (by omega)]
    refine ⟨[], ?_, rfl⟩
    rw [run_zero, List.append_nil, State.bytesAt, List.append_nil, ← hp, ← hs]
  | succ n ih =>
    have hp : s.writeReadFrom got = .writeRead got := by unfold State.writeReadFrom; rw [if_pos (by omega)]
    rw [hp] at hs
    obtain ⟨es, h1, h2⟩ := ih (s := s.fetchByte got) (got ++ [s.memRead (s.sourceAddr got.length)]) ht rfl hc
      (by simp only [State.fetchByte, State.goto_cursor, State.logRead_cursor, List.length_append, List.length_singleton]; omega)
    refine ⟨.memRead (s.sourceAddr got.length) (s.memRead (s.sourceAddr got.length)) :: es, ?_, h2⟩
    refine run_via _ (step_perform ht hs hc rfl) (h1.trans ?_)
    have hb : (s.fetchByte got).bytesAt ((s.fetchByte got).sourceAddr (got ++ [s.memRead (s.sourceAddr got.length)]).length) n =
        s.bytesAt (s.sourceAddr got.length + 1) n := by
      rw [State.bytesAt_congr (s := s.fetchByte got) (t := s) rfl, List.length_append, List.length_singleton]
      congr 1
      simp only [State.sourceAddr, State.fetchByte, State.goto_latch, State.goto_cursor, State.logRead_latch, State.logRead_cursor]
      rw [BitVec.ofNat_add, ← BitVec.add_assoc]
      rfl
    rw [hb, State.bytesAt, List.append_assoc, List.singleton_append]
    simp only [State.fetchByte, State.goto, State.logRead, State.log, List.append_assoc, List.cons_append, List.nil_append]

/-! ### One chunk, one sector -/

/-- WRITE's three assignments after a chunk, up to the loop test (spec/44 R250). -/
theorem run_write_next {s : State} (ht : s.turns = []) (hs : s.seq = .running .writeNextCur) (hc : s.call = none) :
    ∃ t, Host.Core.run Sys2Proof.core 3 s = .next (t.goto t.writeLoop) ∧
      t = { s with
        seq := .running .writeNextChunk
        cursor := ⟨s.cursor.cur + s.cursor.chunk, s.cursor.enda,
          nextChunk s.cfg.pageSize (s.cursor.cur + s.cursor.chunk) s.cursor.enda, s.cursor.off + s.cursor.chunk⟩ } := by
  refine ⟨_, run_via 2 (step_perform ht hs hc rfl) (run_via 1 (step_perform ht rfl hc rfl) (run_via 0 (step_perform ht rfl hc rfl) ?_)),
    rfl⟩
  rfl

/-- The data of a chunk after its PP frame (spec/44 R250): the source reads, TxData, the ready wait, the cursors, up to the loop test. -/
theorem run_chunk_data {s : State} {b bs : List Byte} {rest : List Answer} (ht : s.turns = []) (hs : s.seq = .running (s.writeReadFrom []))
    (hc : s.call = none) (hr : s.transport = .ok :: .matched b :: rest) (hb : matchedSamples (readyPoll s.cfg) b = true)
    (hbs : s.bytesAt (s.latch.a2 + s.cursor.off) s.cursor.chunk.toNat = bs) :
    ∃ es t, Host.Core.run Sys2Proof.core (s.cursor.chunk.toNat + 7) s = .next (t.goto t.writeLoop) ∧
      busEvents es = exchange [(.txData bs, .ok),
        (readyCall s.cfg .program, .matched b)] ∧
      t = { s with
        seq := .running .writeNextChunk, cmdDesc := cmdRegs (statusDesc s.cfg.cmdRdsr), pollDesc := pollRegs (readyPoll s.cfg)
        pollClass := PollClass.program.bits, transport := rest, trace := s.trace ++ es
        cursor := ⟨s.cursor.cur + s.cursor.chunk, s.cursor.enda,
          nextChunk s.cfg.pageSize (s.cursor.cur + s.cursor.chunk) s.cursor.enda, s.cursor.off + s.cursor.chunk⟩ } := by
  obtain ⟨es, h1, h2⟩ := run_fetch s.cursor.chunk.toNat [] ht hs hc (by simp)
  rw [show [] ++ s.bytesAt (s.sourceAddr ([] : List Byte).length) s.cursor.chunk.toNat =
    bs by
      rw [← hbs]; simp [State.sourceAddr]] at h1
  have h3 := run_then _ 2 h1 (run_data (c := .txData _) (a := .ok) (q := .writeReady) ht rfl hc rfl rfl hr rfl rfl)
  have h4 := run_then _ 2 h3 (run_poll (q := readyPoll s.cfg) (c := .program) (p' := .writeNextCur) ht rfl hc rfl rfl rfl hb rfl)
  obtain ⟨t, h5, h6⟩ := run_write_next (s := { s with
      seq := .running .writeNextCur, cmdDesc := cmdRegs (statusDesc s.cfg.cmdRdsr), pollDesc := pollRegs (readyPoll s.cfg)
      pollClass := PollClass.program.bits, transport := rest
      trace := s.trace ++ es ++ exchange [(.txData bs, .ok)]
        ++ exchange [(readyCall s.cfg .program, .matched b)] }) ht rfl hc
  refine ⟨es ++ exchange [(.txData bs, .ok)] ++
    exchange [(readyCall s.cfg .program, .matched b)], t, run_then _ 3 h4 h5, ?_, ?_⟩
  · rw [busEvents_append, busEvents_append, h2, busEvents_exchange, busEvents_exchange, List.nil_append, ← exchange_append]
    rfl
  · rw [h6]
    simp only [List.append_assoc]

/-- A chunk of a WRITE whose calls all succeed (spec/44 R250), up to the loop test. -/
theorem run_chunk {s : State} {w b : List Byte} {rest : List Answer} (ht : s.turns = []) (hs : s.seq = .running (.gateWren .write))
    (hc : s.call = none) (hr : s.transport = [.ok, .matched w, .ok, .ok, .matched b] ++ rest)
    (hw : matchedSamples (welPoll s.cfg) w = true) (hb : matchedSamples (readyPoll s.cfg) b = true) :
    ∃ es t, Host.Core.run Sys2Proof.core (13 + s.cursor.chunk.toNat) s = .next (t.goto t.writeLoop) ∧
      busEvents es = exchange (gateCalls s.cfg w ++
        [(.issueCmd (s.desc .pp s.cursor.cur s.cursor.chunk), .ok),
         (.txData (s.bytesAt (s.latch.a2 + s.cursor.off) s.cursor.chunk.toNat), .ok), (readyCall s.cfg .program, .matched b)]) ∧
      t = { s with
        seq := .running .writeNextChunk, cmdDesc := cmdRegs (statusDesc s.cfg.cmdRdsr), pollDesc := pollRegs (readyPoll s.cfg)
        pollClass := PollClass.program.bits, transport := rest, trace := s.trace ++ es
        cursor := ⟨s.cursor.cur + s.cursor.chunk, s.cursor.enda,
          nextChunk s.cfg.pageSize (s.cursor.cur + s.cursor.chunk) s.cursor.enda, s.cursor.off + s.cursor.chunk⟩ } := by
  have hd : frameDesc s.cfg (s.programFrame s.cursor.cur s.cursor.chunk) = some (s.desc .pp s.cursor.cur s.cursor.chunk) := by
    simp only [State.programFrame, State.desc]; split <;> rfl
  have h1 := run_then 4 2 (run_gate ht hs hc hr hw) (run_frame (q := s.writeReadFrom []) ht rfl hc rfl hd rfl rfl rfl)
  obtain ⟨es, t, h2, h3, h4⟩ := run_chunk_data
    (bs := s.bytesAt (s.latch.a2 + s.cursor.off) s.cursor.chunk.toNat) (s := { s with
      seq := .running (s.writeReadFrom []), cmdDesc := cmdRegs (s.desc .pp s.cursor.cur s.cursor.chunk)
      pollDesc := pollRegs (welPoll s.cfg), pollClass := PollClass.we.bits, transport := .ok :: .matched b :: rest
      trace := s.trace ++ exchange (gateCalls s.cfg w) ++ exchange [(.issueCmd (s.desc .pp s.cursor.cur s.cursor.chunk), .ok)] })
    ht rfl hc rfl hb (by refine State.bytesAt_congr ?_ _ _; rfl)
  refine ⟨exchange (gateCalls s.cfg w) ++ exchange [(.issueCmd (s.desc .pp s.cursor.cur s.cursor.chunk), .ok)] ++ es, t, ?_, ?_, ?_⟩
  · rw [show 13 + s.cursor.chunk.toNat = 4 + 2 + (s.cursor.chunk.toNat + 7) by omega]
    exact run_then _ _ h1 h2
  · rw [busEvents_append, busEvents_append, busEvents_exchange, busEvents_exchange, h3, ← exchange_append, ← exchange_append]
    rfl
  · rw [h4]
    simp only [List.append_assoc]

/-- A sector of an ERASE_SECTOR_RANGE whose calls all succeed (spec/45 R272), up to the loop test. -/
theorem run_sector {s : State} {w b : List Byte} {rest : List Answer} (ht : s.turns = []) (hs : s.seq = .running (.gateWren .erase))
    (hc : s.call = none) (hr : s.transport = [.ok, .matched w, .ok, .matched b] ++ rest)
    (hw : matchedSamples (welPoll s.cfg) w = true) (hb : matchedSamples (readyPoll s.cfg) b = true) :
    ∃ t : State, Host.Core.run Sys2Proof.core 9 s = .next (t.goto t.eraseLoop) ∧
      t = { s with
        seq := .running .eraseNext, cmdDesc := cmdRegs (statusDesc s.cfg.cmdRdsr), pollDesc := pollRegs (readyPoll s.cfg)
        pollClass := PollClass.sector.bits, transport := rest
        trace := s.trace ++ exchange (gateCalls s.cfg w ++
          [(.issueCmd (s.desc .se s.cursor.cur 0), .ok), (readyCall s.cfg .sector, .matched b)])
        cursor := ⟨s.cursor.cur + BitVec.ofNat 32 s.cfg.sectorSize, s.cursor.enda, s.cursor.chunk, s.cursor.off⟩ } := by
  have hd : frameDesc s.cfg (s.sectorFrame s.cursor.cur) = some (s.desc .se s.cursor.cur 0) := by
    simp only [State.sectorFrame, State.desc]; split <;> rfl
  have h1 := run_then 4 2 (run_gate ht hs hc hr hw) (run_frame (q := .eraseReady) ht rfl hc rfl hd rfl rfl rfl)
  have h2 := run_then _ 2 h1 (run_poll (q := readyPoll s.cfg) (c := .sector) (p' := .eraseNext) ht rfl hc rfl rfl rfl hb rfl)
  have h3 := run_then _ 1 h2 (run_via 0 (step_perform ht rfl hc rfl) rfl)
  refine ⟨_, h3.trans ?_, rfl⟩
  rw [exchange_append]
  simp only [exchange, readyCall, List.append_assoc, List.cons_append, List.nil_append]
  rfl

end Sys2Proof.Machine
end

