-- ==== Sys2Proof/Laws/PerInstr.lean ====
section
/-! SUPPORT. One statement made per instruction, about its syntax: the shape of its encoding (spec/30_encoding.md R110, R118, R119, R128, R130). -/

namespace Sys2Proof.Laws

/-- The shape of an instruction's encoding: a request is one REQ word with RSV = 0 and a legal OP; a frame is three descriptor words with
the reserved fields 0, and only a frame that transfers data has a length; an instruction that changes the device is a frame. -/
def Encoding.Statement (i : Instr) : Prop :=
  ∀ p : Params, (i.mutating = true → i.port = .cmd) ∧
    match i.port with
    | .req => ∃ w, encode p i = [w] ∧ w.extractLsb' 4 28 = 0 ∧ 1 ≤ w.toNat ∧ w.toNat ≤ 9
    | .cmd => ∃ dw0 dw1 dw2, encode p i = [dw0, dw1, dw2] ∧ reservedField dw0 = 0 ∧ dw0.extractLsb' 14 2 = 0 ∧
        (dw0.extractLsb' 11 2 = 0 → dw2 = 0)

/-- The reserved and data-direction fields of any descriptor. -/
theorem Encoding.dw0_fields (d : CmdDesc) :
    reservedField d.dw0 = 0 ∧ d.dw0.extractLsb' 14 2 = 0 ∧ d.dw0.extractLsb' 11 2 = d.ddir.bits := by
  obtain ⟨code, aw, a, dd, dwd, dummy, n⟩ := d
  simp only [CmdDesc.dw0, reservedField]
  generalize BitVec.ofBool _ = x, aw.bits = y, dd.bits = z, dwd.bits = u
  refine ⟨BitVec.eq_of_getLsbD_eq fun j hj => ?_, BitVec.eq_of_getLsbD_eq fun j hj => ?_, BitVec.eq_of_getLsbD_eq fun j hj => ?_⟩
  all_goals interval_cases j <;> simp only [BitVec.getLsbD_extractLsb', BitVec.getLsbD_append] <;> simp

theorem Encoding.req {i : Instr} (hp : i.port = .req) (hd : ∀ p, frameDesc p i = none)
    (hw : (requestWord i).extractLsb' 4 28 = 0 ∧ 1 ≤ (requestWord i).toNat ∧ (requestWord i).toNat ≤ 9) (hm : i.mutating = false) :
    Encoding.Statement i := by
  intro p
  rw [hm, hp]
  exact ⟨fun h => (by cases h), _, by simp only [encode, hd], hw⟩

theorem Encoding.cmd {i : Instr} (hp : i.port = .cmd)
    (hd : ∀ p, ∃ d, frameDesc p i = some d ∧ (d.ddir.bits = 0 → d.dlen = 0)) : Encoding.Statement i := by
  intro p
  obtain ⟨d, h, hl⟩ := hd p
  obtain ⟨h1, h2, h3⟩ := Encoding.dw0_fields d
  rw [hp]
  exact ⟨fun _ => rfl, _, _, _, by simp only [encode, h]; rfl, h1, h2, fun h => hl (h3 ▸ h)⟩

theorem Encoding.init : Encoding.Statement .init := Encoding.req rfl (fun _ => rfl) (by decide) rfl
theorem Encoding.read : Encoding.Statement .read := Encoding.req rfl (fun _ => rfl) (by decide) rfl
theorem Encoding.write : Encoding.Statement .write := Encoding.req rfl (fun _ => rfl) (by decide) rfl
theorem Encoding.erase : Encoding.Statement .erase := Encoding.req rfl (fun _ => rfl) (by decide) rfl
theorem Encoding.eraseChip : Encoding.Statement .eraseChip := Encoding.req rfl (fun _ => rfl) (by decide) rfl
theorem Encoding.getStatus : Encoding.Statement .getStatus := Encoding.req rfl (fun _ => rfl) (by decide) rfl
theorem Encoding.getGeometry : Encoding.Statement .getGeometry := Encoding.req rfl (fun _ => rfl) (by decide) rfl
theorem Encoding.enterMm : Encoding.Statement .enterMm := Encoding.req rfl (fun _ => rfl) (by decide) rfl
theorem Encoding.enter4b : Encoding.Statement .enter4b := Encoding.req rfl (fun _ => rfl) (by decide) rfl
theorem Encoding.wren : Encoding.Statement .wren := Encoding.cmd rfl fun _ => ⟨_, rfl, fun _ => rfl⟩
theorem Encoding.rsten : Encoding.Statement .rsten := Encoding.cmd rfl fun _ => ⟨_, rfl, fun _ => rfl⟩
theorem Encoding.rstmem : Encoding.Statement .rstmem := Encoding.cmd rfl fun _ => ⟨_, rfl, fun _ => rfl⟩
theorem Encoding.en4b : Encoding.Statement .en4b := Encoding.cmd rfl fun _ => ⟨_, rfl, fun _ => rfl⟩
theorem Encoding.rdsr : Encoding.Statement .rdsr := Encoding.cmd rfl fun _ => ⟨_, rfl, fun h => (by cases h)⟩
theorem Encoding.pp3 (a : Addr24) (n : Word) : Encoding.Statement (.pp3 a n) := Encoding.cmd rfl fun _ => ⟨_, rfl, fun h => (by cases h)⟩
theorem Encoding.pp4 (a n : Word) : Encoding.Statement (.pp4 a n) := Encoding.cmd rfl fun _ => ⟨_, rfl, fun h => (by cases h)⟩
theorem Encoding.qfr3 (a : Addr24) (n : Word) : Encoding.Statement (.qfr3 a n) := Encoding.cmd rfl fun _ => ⟨_, rfl, fun h => (by cases h)⟩
theorem Encoding.qfr4 (a n : Word) : Encoding.Statement (.qfr4 a n) := Encoding.cmd rfl fun _ => ⟨_, rfl, fun h => (by cases h)⟩
theorem Encoding.se3 (a : Addr24) : Encoding.Statement (.se3 a) := Encoding.cmd rfl fun _ => ⟨_, rfl, fun _ => rfl⟩
theorem Encoding.se4 (a : Word) : Encoding.Statement (.se4 a) := Encoding.cmd rfl fun _ => ⟨_, rfl, fun _ => rfl⟩
theorem Encoding.ce : Encoding.Statement .ce := Encoding.cmd rfl fun _ => ⟨_, rfl, fun _ => rfl⟩

end Sys2Proof.Laws
end

