-- ==== Sys2Proof/Laws/Programs.lean ====
section
/-! SUPPORT. What the programs can do, said once: `State.perform_facts` for a statement that is no IssueCmd, `State.perform_goes` and
`State.after_goes` for where a program goes on, and what the invariants say of a running request. -/

namespace Sys2Proof.Machine

/-- What the control invariant says while a request runs. -/
theorem State.controlInv_running {s : State} {p : Pos} (hi : s.controlInv = true) (hs : s.seq = .running p) :
    s.stat.busy = true ∧ s.stat.done = false ∧ s.latch.op = requestOp p.request ∧
      (∀ i c, p = .finish i c → mayReturn i c = true) ∧ (s.stat.mmap = true → p.quiet = true ∧ s.call = none) ∧
      s.window = if s.stat.mmap then some (s.desc .qfr 0 0) else none := by
  simp only [State.controlInv, State.busyAgrees, State.busyNotDone, State.opAgrees, State.codeAgrees, State.quietInMm,
    State.windowAgrees, hs, Bool.and_eq_true] at hi
  obtain ⟨⟨⟨⟨⟨h1, h2⟩, h3⟩, h4⟩, h5⟩, h6⟩ := hi
  refine ⟨h1, by simpa [h1] using h2, by simpa using h3, fun i c h => by subst h; exact h4, fun h => ?_, by simpa using h6⟩
  simp only [h, Bool.not_true, Bool.false_or, Bool.and_eq_true] at h5
  exact ⟨h5.2, by simpa using h5.1⟩

/-- With the control invariant, no request runs in a state that is not faulted and not busy. -/
theorem State.controlInv_idle {s : State} (hi : s.controlInv = true) (hf : ∀ r, s.seq ≠ .faulted r) (hb : s.stat.busy = false) :
    s.seq = .idle := by
  cases hs : s.seq with
  | idle => rfl
  | running p => have := (State.controlInv_running hi hs).1; simp_all
  | faulted r => exact absurd hs (hf r)

/-- A position that is quiet in MM mode is the end of a program. -/
theorem Pos.quiet_finish {p : Pos} (h : p.quiet = true) : ∃ i c, p = .finish i c := by
  cases p <;> simp [Pos.quiet] at h ⊢

/-- An outstanding call is the call of its position. -/
theorem State.callAgrees_running {s : State} {p : Pos} {c : Call} (ha : s.callAgrees = true) (hs : s.seq = .running p)
    (hc : s.call = some c) : s.callAt p = some c := by
  simpa only [State.callAgrees, hs, hc, beq_iff_eq] using ha

/-- The operand invariant reads the parameters, the latched request, the cursors, ADDR4, host memory and the position, nothing else. -/
theorem State.operandsOk_congr {s t : State} (h1 : t.cfg = s.cfg) (h2 : t.latch = s.latch) (h3 : t.cursor = s.cursor)
    (h4 : t.stat.addr4 = s.stat.addr4) (h5 : t.mem = s.mem) (h6 : t.seq = s.seq) : t.operandsOk = s.operandsOk := by
  simp only [State.operandsOk, State.writeOk, State.transferOk, State.eraseOk, State.sourceHas, h1, h2, h3, h4, h6,
    State.bytesAt_congr h5]

/-- A statement that is no IssueCmd: the parameters, the latched request and the other agents' lists stay, the trace grows, and a mode or LAST_SR is
changed only by the request the spec names. -/
theorem State.perform_facts (s : State) (p : Pos) :
    (s.perform p).cfg = s.cfg ∧ (s.perform p).args = s.args ∧ (s.perform p).latch = s.latch ∧ (s.perform p).host = s.host ∧
      (s.perform p).transport = s.transport ∧ (s.perform p).turns = s.turns ∧ (∃ es, (s.perform p).trace = s.trace ++ es) ∧
      ((s.perform p).stat.addr4 ≠ s.stat.addr4 → p.request = .init ∨ p.request = .enter4b) ∧
      ((s.perform p).stat.mmap ≠ s.stat.mmap → p.request = .enterMm ∧ (s.perform p).stat.mmap = true) ∧
      ((s.perform p).stat.lastSr ≠ s.stat.lastSr → p.request = .getStatus) := by
  have keep : ∀ t : State, t.cfg = s.cfg ∧ t.args = s.args ∧ t.latch = s.latch ∧ t.host = s.host ∧ t.transport = s.transport ∧
      t.turns = s.turns → t.stat = s.stat → (∃ es, t.trace = s.trace ++ es) →
      t.cfg = s.cfg ∧ t.args = s.args ∧ t.latch = s.latch ∧ t.host = s.host ∧ t.transport = s.transport ∧ t.turns = s.turns ∧
      (∃ es, t.trace = s.trace ++ es) ∧ (t.stat.addr4 ≠ s.stat.addr4 → p.request = .init ∨ p.request = .enter4b) ∧
      (t.stat.mmap ≠ s.stat.mmap → p.request = .enterMm ∧ t.stat.mmap = true) ∧
      (t.stat.lastSr ≠ s.stat.lastSr → p.request = .getStatus) :=
    fun t ⟨h1, h2, h3, h4, h5, h6⟩ hs ht => ⟨h1, h2, h3, h4, h5, h6, ht, fun h => absurd (by rw [hs]) h, fun h => absurd (by rw [hs]) h,
      fun h => absurd (by rw [hs]) h⟩
  have same : ∃ es, s.trace = s.trace ++ es := ⟨[], (List.append_nil _).symm⟩
  cases p with
  | readStore i rest =>
    cases rest with
    | nil => exact keep _ ⟨rfl, rfl, rfl, rfl, rfl, rfl⟩ rfl same
    | cons b bs => exact keep _ ⟨rfl, rfl, rfl, rfl, rfl, rfl⟩ rfl ⟨_, rfl⟩
  | initClear => exact ⟨rfl, rfl, rfl, rfl, rfl, rfl, same, fun _ => .inl rfl, fun h => absurd rfl h, fun h => absurd rfl h⟩
  | initSet => exact ⟨rfl, rfl, rfl, rfl, rfl, rfl, same, fun _ => .inl rfl, fun h => absurd rfl h, fun h => absurd rfl h⟩
  | enter4bSet => exact ⟨rfl, rfl, rfl, rfl, rfl, rfl, same, fun _ => .inr rfl, fun h => absurd rfl h, fun h => absurd rfl h⟩
  | mapSet => exact ⟨rfl, rfl, rfl, rfl, rfl, rfl, same, fun h => absurd rfl h, fun _ => ⟨rfl, rfl⟩, fun h => absurd rfl h⟩
  | statusSave b => exact ⟨rfl, rfl, rfl, rfl, rfl, rfl, same, fun h => absurd rfl h, fun h => absurd rfl h, fun _ => rfl⟩
  | finish i c => exact ⟨rfl, rfl, rfl, rfl, rfl, rfl, same, fun h => absurd rfl h, fun h => absurd rfl h, fun h => absurd rfl h⟩
  | _ => exact keep _ ⟨rfl, rfl, rfl, rfl, rfl, rfl⟩ rfl (by first | exact same | exact ⟨_, rfl⟩)

/-- A statement other than `finish` leaves RESULT, BUSY and DONE; one other than ENTER_MEMORY_MAPPED's last assignment leaves MMAP and the
transport's configuration. -/
theorem State.perform_flags (s : State) {p : Pos} (h : ∀ i c, p ≠ .finish i c) :
    (s.perform p).stat.busy = s.stat.busy ∧ (s.perform p).stat.done = s.stat.done ∧ (s.perform p).stat.result = s.stat.result ∧
      (p ≠ .mapSet → (s.perform p).stat.mmap = s.stat.mmap ∧ (s.perform p).window = s.window) := by
  cases p with
  | finish i c => exact absurd rfl (h i c)
  | mapSet => exact ⟨rfl, rfl, rfl, fun h => absurd rfl h⟩
  | readStore i rest => cases rest <;> exact ⟨rfl, rfl, rfl, fun _ => ⟨rfl, rfl⟩⟩
  | _ => exact ⟨rfl, rfl, rfl, fun _ => ⟨rfl, rfl⟩⟩

/-- Position `q` may come after `p`: it is of the same request, and at the end of the program with a code of the request's row. -/
def Pos.follows (p q : Pos) : Prop := q.request = p.request ∧ ∀ i c, q = .finish i c → mayReturn i c = true

theorem Pos.follows_finish {p : Pos} {i : Instr} {c : ResultCode} (hi : i = p.request) (hc : mayReturn i c = true) :
    p.follows (.finish i c) := ⟨hi, fun j d h => by cases h; exact hc⟩

theorem Pos.follows_other {p q : Pos} (h : q.request = p.request) (hq : ∀ i c, q ≠ .finish i c) : p.follows q :=
  ⟨h, fun i c he => absurd he (hq i c)⟩

theorem Pos.follows_orFinish {p q : Pos} {good : Bool} {i : Instr} {c : ResultCode} (hi : i = p.request) (hc : mayReturn i c = true)
    (hq : p.follows q) : p.follows (orFinish good q i c) := by
  unfold orFinish
  split
  · exact hq
  · exact Pos.follows_finish hi hc

/-- A statement that is no IssueCmd places the call of its position and stays there, goes on to a position of the same request without a call, or is
`finish`. -/
theorem State.perform_goes (s : State) {p : Pos} (hp : s.frameAt p = none) :
    ((s.perform p).seq = s.seq ∧ (s.perform p).call = s.callAt p ∧ ∀ i c, p ≠ .finish i c) ∨
      ((s.perform p).call = s.call ∧ (∃ q, (s.perform p).seq = .running q ∧ p.follows q) ∧ ∀ i c, p ≠ .finish i c) ∨
      ∃ i c, p = .finish i c ∧ s.perform p = s.finish c := by
  cases p with
  | finish i c => exact .inr (.inr ⟨i, c, rfl, rfl⟩)
  | readStore i rest =>
    refine .inr (.inl ?_)
    cases rest with
    | nil => exact ⟨rfl, ⟨_, rfl, Pos.follows_finish rfl rfl⟩, by simp⟩
    | cons b bs =>
      refine ⟨rfl, ⟨_, rfl, ?_⟩, by simp⟩
      cases bs with
      | nil => exact Pos.follows_finish rfl rfl
      | cons _ _ => exact Pos.follows_other rfl (by simp [readStoreFrom])
  | readAny i =>
    refine .inr (.inl ⟨rfl, ⟨_, rfl, ?_⟩, by simp⟩)
    unfold State.readAnyFrom
    split
    · exact Pos.follows_other rfl (by simp)
    · exact Pos.follows_finish rfl rfl
  | writeRead got =>
    refine .inr (.inl ⟨rfl, ⟨_, rfl, ?_⟩, by simp⟩)
    unfold State.writeReadFrom
    split <;> exact Pos.follows_other rfl (by simp)
  | writeNextChunk =>
    refine .inr (.inl ⟨rfl, ⟨_, rfl, ?_⟩, by simp⟩)
    unfold State.writeLoop
    split
    · exact Pos.follows_other rfl (by simp)
    · exact Pos.follows_finish rfl rfl
  | eraseEnda =>
    refine .inr (.inl ⟨rfl, ⟨_, rfl, ?_⟩, by simp⟩)
    unfold State.eraseLoop
    split
    · exact Pos.follows_other rfl (by simp)
    · exact Pos.follows_finish rfl rfl
  | eraseNext =>
    refine .inr (.inl ⟨rfl, ⟨_, rfl, ?_⟩, by simp⟩)
    unfold State.eraseLoop
    split
    · exact Pos.follows_other rfl (by simp)
    · exact Pos.follows_finish rfl rfl
  | statusSave b =>
    refine .inr (.inl ⟨rfl, ⟨_, rfl, ?_⟩, by simp⟩)
    refine Pos.follows_finish rfl ?_
    unfold statusResult
    split <;> rfl
  | _ =>
    first
    | (cases hp; done)
    | exact .inl ⟨rfl, rfl, by simp⟩
    | exact .inr (.inl ⟨rfl, ⟨_, rfl, Pos.follows_finish rfl rfl⟩, by simp⟩)
    | exact .inr (.inl ⟨rfl, ⟨_, rfl, Pos.follows_other rfl (by simp)⟩, by simp⟩)

/-- After an answer a program goes on in the same request; a position without a call keeps its place. -/
theorem State.after_goes (s : State) (a : Answer) (p : Pos) : s.after a p = p ∨ p.follows (s.after a p) := by
  cases p with
  | gateWren u =>
    simp only [State.after, afterGateWren]
    split
    · exact .inr (Pos.follows_other rfl (by simp))
    · cases u <;> exact .inr (Pos.follows_finish rfl rfl)
  | gateWel u =>
    simp only [State.after, afterGateWel]
    split
    · cases u <;> exact .inr (Pos.follows_other rfl (by simp [gateReturn]))
    · cases u <;> exact .inr (Pos.follows_finish rfl rfl)
  | readData =>
    simp only [State.after]
    split
    · cases a.bytes with
      | nil => exact .inr (Pos.follows_finish rfl rfl)
      | cons _ _ => exact .inr (Pos.follows_other rfl (by simp [readStoreFrom]))
    · unfold State.readAnyFrom
      split
      · exact .inr (Pos.follows_other rfl (by simp))
      · exact .inr (Pos.follows_finish rfl rfl)
  | writeCmd =>
    refine .inr (Pos.follows_orFinish rfl rfl ?_)
    unfold State.writeReadFrom
    split <;> exact Pos.follows_other rfl (by simp)
  | chipReady => exact .inr (Pos.follows_orFinish rfl rfl (Pos.follows_finish rfl rfl))
  | _ =>
    first
    | exact .inl rfl
    | exact .inr (Pos.follows_orFinish rfl rfl (Pos.follows_other rfl (by simp)))

end Sys2Proof.Machine
end

