-- ==== Sys2Proof/Laws/Splitter.lean ====
section
/-! SUPPORT. The splitter's arithmetic, for every page and sector size: what the assignments of WRITE and ERASE_SECTOR_RANGE do to the cursors
(spec/44_read_write.md R250, spec/45_erase.md R272). -/

namespace Sys2Proof.Machine

/-- What legal parameters say of the sizes (spec/00 R7). -/
theorem Params.valid_sizes {p : Params} (h : p.valid = true) :
    0 < p.sectorSize ∧ 0 < p.pageSize ∧ p.flashSize % p.pageSize = 0 ∧ p.flashSize + p.sectorSize ≤ 2 ^ 32 := by
  simp only [Params.valid, Bool.and_eq_true, decide_eq_true_eq, beq_iff_eq] at h
  obtain ⟨⟨⟨⟨h, -⟩, -⟩, -⟩, -⟩ := h
  have hs : p.sectorSize ≤ p.flashSize := by
    unfold Params.flashSize Params.sectorCount
    exact Nat.le_mul_of_pos_right _ (Nat.succ_pos _)
  refine ⟨by tauto, by tauto, by tauto, ?_⟩
  have : p.flashSize ≤ 2 ^ 32 - p.sectorSize := by tauto
  have : 0 < p.sectorSize := by tauto
  omega

theorem mod_up (a : Nat) {P : Nat} (hP : 0 < P) : (a + (P - a % P)) % P = 0 := by
  have h1 := Nat.mod_lt a hP
  have h2 := Nat.div_add_mod a P
  have h3 : a + (P - a % P) = P * (a / P + 1) := by rw [Nat.mul_add, Nat.mul_one]; omega
  rw [h3, Nat.mul_mod_right]

theorem mod_down (a S : Nat) : (a - a % S) % S = 0 := by
  have h2 := Nat.div_add_mod a S
  rw [show a - a % S = S * (a / S) by omega, Nat.mul_mod_right]

/-- CHUNK after the first assignment. -/
theorem firstChunk_toNat (P : Nat) (a n : Word) : (firstChunk P a n).toNat = min n.toNat (P - a.toNat % P) := by
  have := n.isLt
  rw [firstChunk, BitVec.toNat_ofNat, Nat.mod_eq_of_lt (by omega)]

/-- CHUNK after a chunk. -/
theorem nextChunk_toNat (P : Nat) (cur enda : Word) : (nextChunk P cur enda).toNat = min P (enda.toNat - cur.toNat) := by
  have := enda.isLt
  rw [nextChunk, BitVec.toNat_ofNat, Nat.mod_eq_of_lt (by omega)]

theorem Cursor.chunkOk_iff {P : Nat} {l : Latch} {c : Cursor} :
    c.chunkOk P l = true ↔
      c.enda.toNat = l.a0.toNat + l.a1.toNat ∧ l.a0.toNat ≤ c.cur.toNat ∧ c.cur.toNat + c.chunk.toNat ≤ l.a0.toNat + l.a1.toNat ∧
      c.off.toNat = c.cur.toNat - l.a0.toNat ∧ c.chunk.toNat ≤ P - c.cur.toNat % P ∧
      (c.cur.toNat + c.chunk.toNat = l.a0.toNat + l.a1.toNat ∨ (c.cur.toNat + c.chunk.toNat) % P = 0) ∧
      (c.chunk.toNat ≠ 0 ∨ l.a1.toNat = 0) := by
  simp only [Cursor.chunkOk, Bool.and_eq_true, Bool.or_eq_true, beq_iff_eq, decide_eq_true_eq, bne_iff_ne, and_assoc]

/-- WRITE's four assignments before the loop bring the splitter into its loop state. -/
theorem Cursor.chunkOk_first {P : Nat} (hP : 0 < P) {l : Latch} (h : l.a0.toNat + l.a1.toNat < 2 ^ 32) :
    Cursor.chunkOk P l ⟨l.a0, l.a0 + l.a1, firstChunk P l.a0 l.a1, 0⟩ = true := by
  rw [Cursor.chunkOk_iff]
  have h1 := Nat.mod_lt l.a0.toNat hP
  have h2 := mod_up l.a0.toNat hP
  simp only [firstChunk_toNat]
  refine ⟨by rw [BitVec.toNat_add]; omega, by omega, by omega, by simp, by omega, ?_, by omega⟩
  rcases Nat.le_total l.a1.toNat (P - l.a0.toNat % P) with hle | hle
  · exact .inl (by omega)
  · exact .inr (by rw [Nat.min_eq_right hle, h2])

/-- WRITE's three assignments after a chunk keep the splitter's loop state, while CUR < ENDA. -/
theorem Cursor.chunkOk_next {P : Nat} (hP : 0 < P) {l : Latch} {c : Cursor} (hc : c.chunkOk P l = true) (hl : (c.cur + c.chunk).toNat < c.enda.toNat) :
    Cursor.chunkOk P l ⟨c.cur + c.chunk, c.enda, nextChunk P (c.cur + c.chunk) c.enda, c.off + c.chunk⟩ = true := by
  rw [Cursor.chunkOk_iff] at hc ⊢
  obtain ⟨c1, c2, c3, c4, c5, c6, c7⟩ := hc
  have e1 : (c.cur + c.chunk).toNat = c.cur.toNat + c.chunk.toNat := by rw [BitVec.toNat_add]; omega
  have e2 : (c.off + c.chunk).toNat = c.off.toNat + c.chunk.toNat := by rw [BitVec.toNat_add]; omega
  have hm : (c.cur.toNat + c.chunk.toNat) % P = 0 := c6.resolve_left (by omega)
  simp only [nextChunk_toNat, e1, e2, hm] at hl ⊢
  refine ⟨c1, by omega, by omega, by omega, by omega, ?_, by omega⟩
  rcases Nat.le_total P (c.enda.toNat - (c.cur.toNat + c.chunk.toNat)) with hle | hle
  · exact .inr (by rw [Nat.min_eq_left hle, Nat.add_mod_right, hm])
  · exact .inl (by omega)

theorem Cursor.sectorOk_iff {S : Nat} {l : Latch} {c : Cursor} :
    c.sectorOk S l = true ↔
      c.enda = l.a1 ∧ c.cur.toNat % S = 0 ∧ sectorBase S l.a0.toNat ≤ c.cur.toNat ∧ c.cur.toNat ≤ l.a1.toNat := by
  simp only [Cursor.sectorOk, Bool.and_eq_true, beq_iff_eq, decide_eq_true_eq, and_assoc]

/-- The rounded start of an erase. -/
theorem sectorBase_word (S : Nat) (a : Word) : (BitVec.ofNat 32 (sectorBase S a.toNat)).toNat = sectorBase S a.toNat := by
  have := a.isLt
  rw [BitVec.toNat_ofNat, Nat.mod_eq_of_lt (by unfold sectorBase; omega)]

/-- ERASE_SECTOR_RANGE's two assignments before the loop bring the splitter into its loop state. -/
theorem Cursor.sectorOk_first {S : Nat} {l : Latch} (h : l.a0.toNat ≤ l.a1.toNat) (chunk off : Word) :
    Cursor.sectorOk S l ⟨BitVec.ofNat 32 (sectorBase S l.a0.toNat), l.a1, chunk, off⟩ = true := by
  rw [Cursor.sectorOk_iff]
  simp only [sectorBase_word]
  exact ⟨trivial, mod_down _ _, Nat.le_refl _, by unfold sectorBase; omega⟩

/-- CUR <- CUR + S keeps the splitter's loop state, while CUR <= ENDA. -/
theorem Cursor.sectorOk_next {S : Nat} {l : Latch} (h : l.a1.toNat + S < 2 ^ 32) {c : Cursor} (hc : c.sectorOk S l = true)
    (hl : (c.cur + BitVec.ofNat 32 S).toNat ≤ c.enda.toNat) :
    Cursor.sectorOk S l ⟨c.cur + BitVec.ofNat 32 S, c.enda, c.chunk, c.off⟩ = true := by
  rw [Cursor.sectorOk_iff] at hc ⊢
  obtain ⟨c1, c2, c3, c4⟩ := hc
  have e1 : (c.cur + BitVec.ofNat 32 S).toNat = c.cur.toNat + S := by
    rw [BitVec.toNat_add, BitVec.toNat_ofNat]; omega
  rw [c1] at hl
  refine ⟨c1, ?_, ?_, hl⟩
  · rw [e1, Nat.add_mod_right, c2]
  · rw [e1]; omega

end Sys2Proof.Machine
end

