-- ==== Sys2Proof/Tests/Slice0.lean ====
section
/-! SUPPORT. Tests: every expected value is taken from spec/95_test_vectors.md or worked out by hand from the rule named. The parameters are the
example values of spec/95 (Params.sample). Then, for each statement of Obligations.lean, states and operands that meet its hypotheses. -/

namespace Sys2Proof.Tests

open Sys2Proof.Machine

/-! ### Small states -/

/-- Right after reset, with the example parameters. -/
def base : State := { State.reset with cfg := Params.sample }

/-- Operands, and the addressing mode. -/
def withArgs (a0 a1 a2 : Word) (addr4 : Bool) : State :=
  { base with args := ⟨a0, a1, a2⟩, stat := ⟨false, false, .ok, addr4, false, 0⟩ }

/-- A request of opcode `op` at a position, with its operands and cursors. -/
def running (p : Pos) (op : BitVec 4) (addr4 : Bool) (l : Word × Word × Word) (c : Cursor) : State :=
  { base with
    seq := .running p, latch := ⟨op, l.1, l.2.1, l.2.2⟩, cursor := c, stat := ⟨true, false, .ok, addr4, false, 0⟩ }

/-- A request without operands at a position. -/
def plain (p : Pos) (op : BitVec 4) : State := running p op true (0, 0, 0) ⟨0, 0, 0, 0⟩

/-- The host makes one access next. -/
def hostDoes (op : HostOp) (s : State) : State := { s with host := [op], turns := [.host] }

/-- The transport answers an outstanding call next. -/
def answers (c : Call) (a : Answer) (s : State) : State := { s with call := some c, transport := [a], turns := [.transport] }

/-- Memory-mapped mode, as ENTER_MEMORY_MAPPED leaves it. -/
def mapped (addr4 : Bool) : State :=
  let s : State := { base with stat := ⟨false, true, .ok, addr4, true, 0⟩ }
  { s with window := some (s.desc .qfr 0 0), period := 1 }

/-- A part of the next state. -/
def look {α : Type} (f : State → α) : Result → Option α
  | .next t => some (f t)
  | .fault _ => none
  | .refused _ => none

/-- Accepted: SEQ and STAT. -/
def accepted : Result → Option (Seq × Word) := look fun t => (t.seq, t.stat.word)

/-- The words of CMD_DESC, and the call. -/
def framed : Result → Option (CmdWords × Option Call) := look fun t => (t.cmdDesc, t.call)

theorem not_faulted {s : State} (h : s.seq = .idle ∨ ∃ p, s.seq = .running p) : ∀ r, s.seq ≠ .faulted r := by
  intro r hr
  rcases h with h | ⟨p, h⟩ <;> (rw [hr] at h; cases h)

/-! ### WellFormed refuses an ill-formed term for each of its checks (spec/40 R165 to R170) -/

theorem test_wf_pp_longer_than_page : (Instr.pp4 0 257).wf Params.sample = false ∧ (Instr.pp4 0 256).wf Params.sample = true := by decide
theorem test_wf_pp_crosses_page : (Instr.pp3 0xFA 7).wf Params.sample = false ∧ (Instr.pp3 0xFA 6).wf Params.sample = true := by decide
theorem test_wf_pp_outside_flash :
    (Instr.pp4 0x04000000 0).wf Params.sample = false ∧ (Instr.pp4 0x03FFFFFF 1).wf Params.sample = true := by decide
theorem test_wf_pp_leaves_flash :
    (Instr.pp4 0xFFFFFF00 256).wf Params.sample = false ∧ (Instr.pp4 0x03FFFF00 256).wf Params.sample = true := by decide
theorem test_wf_qfr_outside_flash :
    (Instr.qfr4 0x04000000 0).wf Params.sample = false ∧ (Instr.qfr4 0x03FFFFFC 5).wf Params.sample = false ∧
    (Instr.qfr4 0x03FFFFFC 4).wf Params.sample = true := by decide
theorem test_wf_qfr3_not_encodable :
    (Instr.qfr3 0xFFFFFC 5).wf Params.sample = false ∧ (Instr.qfr3 0xFFFFFC 4).wf Params.sample = true := by decide
theorem test_wf_se_off_boundary : (Instr.se3 0x010001).wf Params.sample = false ∧ (Instr.se3 0x010000).wf Params.sample = true := by decide
theorem test_wf_se_outside_flash :
    (Instr.se4 0x04000000).wf Params.sample = false ∧ (Instr.se4 0x03FF0000).wf Params.sample = true := by decide

/-! ### Decoding: words written out from spec/30 R110, R115, R126 and spec/95 L2.1, L2.3 -/

theorem test_decode_init : decodeRequest 0b00000000000000000000000000000001 = .ok .init := by decide
theorem test_decode_read : decodeRequest 0b00000000000000000000000000000010 = .ok .read := by decide
theorem test_decode_write : decodeRequest 0b00000000000000000000000000000011 = .ok .write := by decide
theorem test_decode_erase : decodeRequest 0b00000000000000000000000000000100 = .ok .erase := by decide
theorem test_decode_erase_chip : decodeRequest 0b00000000000000000000000000000101 = .ok .eraseChip := by decide
theorem test_decode_get_status : decodeRequest 0b00000000000000000000000000000110 = .ok .getStatus := by decide
theorem test_decode_get_geometry : decodeRequest 0b00000000000000000000000000000111 = .ok .getGeometry := by decide
theorem test_decode_enter_mm : decodeRequest 0b00000000000000000000000000001000 = .ok .enterMm := by decide
theorem test_decode_enter_4b : decodeRequest 0b00000000000000000000000000001001 = .ok .enter4b := by decide

/-- spec/95 L2.1: the illegal words. -/
theorem test_decode_illegal_words :
    decodeRequest 0 = .error .illegalRequest ∧ decodeRequest 0xA = .error .illegalRequest ∧
    decodeRequest 0xF = .error .illegalRequest ∧ decodeRequest 0x11 = .error .illegalRequest ∧
    decodeRequest 0x80000001 = .error .illegalRequest ∧ decodeRequest 0xFFFFFFFF = .error .illegalRequest := by decide

/-- 0, DUMMY 0, 0, DWIDTH 0, DDIR 00, AWIDTH 00, ADDR_PRESENT 0, INSTR 06. -/
theorem test_decode_wren : decode Params.sample .cmd [0b00000000000000000000000000000110, 0, 0] = .ok .wren := by decide
theorem test_decode_rsten : decode Params.sample .cmd [0b00000000000000000000000001100110, 0, 0] = .ok .rsten := by decide
theorem test_decode_rstmem : decode Params.sample .cmd [0b00000000000000000000000010011001, 0, 0] = .ok .rstmem := by decide
theorem test_decode_en4b : decode Params.sample .cmd [0b00000000000000000000000010110111, 0, 0] = .ok .en4b := by decide
theorem test_decode_ce : decode Params.sample .cmd [0b00000000000000000000000011000111, 0, 0] = .ok .ce := by decide
/-- DDIR 01 at bits 12:11, INSTR 05, DLEN 1. -/
theorem test_decode_rdsr : decode Params.sample .cmd [0b00000000000000000000100000000101, 0, 1] = .ok .rdsr := by decide
/-- DWIDTH 1, DDIR 10, AWIDTH 01, ADDR_PRESENT 1, INSTR 32. -/
theorem test_decode_pp3 : decode Params.sample .cmd [0b00000000000000000011001100110010, 0xFA, 6] = .ok (.pp3 0xFA 6) := by decide
/-- DWIDTH 1, DDIR 10, AWIDTH 10, ADDR_PRESENT 1, INSTR 34. -/
theorem test_decode_pp4 :
    decode Params.sample .cmd [0b00000000000000000011010100110100, 0x03FFFF00, 0x100] = .ok (.pp4 0x03FFFF00 0x100) := by decide
/-- DUMMY 01000, DWIDTH 1, DDIR 01, AWIDTH 01, ADDR_PRESENT 1, INSTR 6B. -/
theorem test_decode_qfr3 : decode Params.sample .cmd [0b00000000000010000010101101101011, 0x1000, 4] = .ok (.qfr3 0x1000 4) := by decide
/-- DUMMY 01000, DWIDTH 1, DDIR 01, AWIDTH 10, ADDR_PRESENT 1, INSTR 6C. -/
theorem test_decode_qfr4 : decode Params.sample .cmd [0b00000000000010000010110101101100, 0x1000, 4] = .ok (.qfr4 0x1000 4) := by decide
/-- DWIDTH 0, DDIR 00, AWIDTH 01, ADDR_PRESENT 1, INSTR D8. -/
theorem test_decode_se3 : decode Params.sample .cmd [0b00000000000000000000001111011000, 0x00FF0000, 0] = .ok (.se3 0xFF0000) := by decide
/-- DWIDTH 0, DDIR 00, AWIDTH 10, ADDR_PRESENT 1, INSTR DC. -/
theorem test_decode_se4 : decode Params.sample .cmd [0b00000000000000000000010111011100, 0x03FF0000, 0] = .ok (.se4 0x03FF0000) := by decide

/-- Each way a descriptor is refused. -/
theorem test_decode_refusals :
    decode Params.sample .cmd [0x00200006, 0, 0] = .error .reservedBits ∧
    decode Params.sample .cmd [0x00004006, 0, 0] = .error .unknownLayout ∧
    decode Params.sample .cmd [0x00000706, 0, 0] = .error .unknownLayout ∧
    decode Params.sample .cmd [0x00000007, 0, 0] = .error .unknownCommand ∧
    decode Params.sample .cmd [0x00002D6C, 0, 4] = .error .wrongDummy ∧
    decode Params.sample .cmd [0x000003D8, 0x01000000, 0] = .error .wrongAddress ∧
    decode Params.sample .cmd [0x00000805, 0, 2] = .error .wrongLength ∧
    decode Params.sample .cmd [0x00000006] = .error .wrongWordCount := by decide

/-! ### Flags: the match and answer tables of spec/95 L2.4, the STAT word of R34 -/

theorem test_match_table :
    [0x00, 0x01, 0x02, 0x03, 0xFC, 0xFF].map (fun b => sampleMatches b (welPoll Params.sample)) =
      [false, false, true, true, false, true] ∧
    [0x00, 0x01, 0x02, 0x03, 0xFC, 0xFF].map (fun b => sampleMatches b (readyPoll Params.sample)) =
      [true, false, true, false, true, false] := by decide

theorem test_poll_words :
    pollRegs (welPoll Params.sample) = ⟨0x00100205, 0x02⟩ ∧ pollRegs (readyPoll Params.sample) = ⟨0x00100305, 0x01⟩ := by decide

theorem test_admitted_answers :
    [Answer.matched [0], .matched [3, 1, 2], .matched [0, 0], .matched [], .matched [1], .noMatch [], .noMatch [1, 3], .noMatch [1, 0]].map
      (admits (readyCall Params.sample .program)) = [true, true, false, false, false, true, true, false] := by decide

/-! ### The nine requests: spec/95 L2.1, L2.2 -/

theorem test_init_accepted : accepted (exec .init base) = some (.running (.gateWren .init), 1) := by decide
theorem test_init_in_mm : accepted (exec .init (mapped true)) = some (.faulted .reqInMemoryMapped, 0x302) := by decide
theorem test_read_ends_at_flash_end :
    accepted (exec .read (withArgs 0x03FFFFFC 4 0x20000000 true)) = some (.running .readCmd, 0x101) := by decide
theorem test_read_faults :
    (accepted (exec .read (withArgs 0x03FFFFFC 5 0x20000000 true))).map Prod.fst = some (.faulted .outOfRange) ∧
    (accepted (exec .read (withArgs 0x00FFFFFC 5 0x20000000 false))).map Prod.fst = some (.faulted .addrNotEncodable) ∧
    (accepted (exec .read (withArgs 0 16 0xFFFFFFF8 true))).map Prod.fst = some (.faulted .bufferInvalid) := by decide
theorem test_write_of_nothing :
    accepted (exec .write (withArgs 0x03FFFFFF 0 0x20000000 true)) = some (.running .writeCur, 0x101) := by decide
theorem test_write_faults :
    (accepted (exec .write (withArgs 0x04000000 0 0x20000000 true))).map Prod.fst = some (.faulted .outOfRange) ∧
    (accepted (exec .write (withArgs 0 16 0x2000FFF1 true))).map Prod.fst = some (.faulted .bufferInvalid) := by decide
theorem test_erase_of_all : accepted (exec .erase (withArgs 0 0x03FFFFFF 0 true)) = some (.running .eraseCur, 0x101) := by decide
theorem test_erase_faults :
    (accepted (exec .erase (withArgs 0x20000 0x1FFFF 0 true))).map Prod.fst = some (.faulted .eraseRangeOrder) ∧
    (accepted (exec .erase (withArgs 0 0x04000000 0 true))).map Prod.fst = some (.faulted .outOfRange) ∧
    (accepted (exec .erase (withArgs 0 0x01000000 0 false))).map Prod.fst = some (.faulted .addrNotEncodable) ∧
    (accepted (exec .erase (withArgs 0x01000000 0x00FFFFFF 0 false))).map Prod.fst = some (.faulted .eraseRangeOrder) := by decide
theorem test_erase_chip_accepted : accepted (exec .eraseChip base) = some (.running (.gateWren .chip), 1) := by decide
theorem test_get_status_while_busy : accepted (exec .getStatus (plain .chipCmd 5)) = some (.faulted .reqWhileBusy, 0x101) := by decide
theorem test_get_status_accepted : look (fun t => t.latch) (exec .getStatus (withArgs 1 2 3 true)) = some ⟨6, 1, 2, 3⟩ := by decide
theorem test_get_geometry_in_mm : accepted (exec .getGeometry (mapped true)) =
    some (.running (.finish .getGeometry .ok), 0x301) := by decide
theorem test_enter_mm_accepted : accepted (exec .enterMm base) = some (.running .mapCfg, 1) := by decide
theorem test_enter_4b_accepted : accepted (exec .enter4b (withArgs 0 0 0 true)) = some (.running .enter4bEn4b, 0x101) := by decide

/-! ### The twelve frames: spec/95 L2.3 -/

theorem test_wren_frame : framed (exec .wren (plain (.gateWren .chip) 5)) = some (⟨0x06, 0, 0⟩, some (plainCall 0x06)) := by decide
theorem test_wren_not_due : exec .wren (plain .chipCmd 5) = .refused .frameNotDue := rfl
theorem test_rsten_frame : framed (exec .rsten (plain .initRsten 1)) = some (⟨0x66, 0, 0⟩, some (plainCall 0x66)) := by decide
theorem test_rstmem_frame : framed (exec .rstmem (plain .initRstmem 1)) = some (⟨0x99, 0, 0⟩, some (plainCall 0x99)) := by decide
theorem test_en4b_frame : framed (exec .en4b (plain .enter4bEn4b 9)) = some (⟨0xB7, 0, 0⟩, some (plainCall 0xB7)) := by decide
theorem test_rdsr_frame :
    framed (exec .rdsr (plain .statusCmd 6)) = some (⟨0x805, 0, 1⟩, some (.issueCmd (statusDesc 0x05))) := by decide
theorem test_pp3_frame :
    look (fun t => t.cmdDesc) (exec (.pp3 0xFA 6) (running .writeCmd 3 false (0xFA, 20, 0x20000000) ⟨0xFA, 0x10E, 6, 0⟩)) =
      some ⟨0x3332, 0xFA, 6⟩ := by decide
theorem test_pp4_frame :
    look (fun t => t.cmdDesc)
      (exec (.pp4 0x03FFFF00 0x100) (running .writeCmd 3 true (0x03FFFF00, 256, 0x20000000) ⟨0x03FFFF00, 0x04000000, 256, 0⟩)) =
      some ⟨0x3534, 0x03FFFF00, 0x100⟩ := by decide
theorem test_qfr3_frame :
    look (fun t => t.cmdDesc) (exec (.qfr3 0x1000 4) (running .readCmd 2 false (0x1000, 4, 0x20000000) ⟨0, 0, 0, 0⟩)) =
      some ⟨0x00082B6B, 0x1000, 4⟩ := by decide
theorem test_qfr4_frame :
    look (fun t => t.cmdDesc) (exec (.qfr4 0x1000 4) (running .readCmd 2 true (0x1000, 4, 0x20000000) ⟨0, 0, 0, 0⟩)) =
      some ⟨0x00082D6C, 0x1000, 4⟩ := by decide
theorem test_qfr4_not_in_3_byte_mode :
    exec (.qfr4 0x1000 4) (running .readCmd 2 false (0x1000, 4, 0x20000000) ⟨0, 0, 0, 0⟩) = .refused .frameNotDue := rfl
theorem test_se3_frame :
    look (fun t => t.cmdDesc) (exec (.se3 0xFF0000) (running .eraseCmd 4 false (0xFF0000, 0xFFFFFF, 0) ⟨0xFF0000, 0xFFFFFF, 0, 0⟩)) =
      some ⟨0x3D8, 0xFF0000, 0⟩ := by decide
theorem test_se4_frame :
    look (fun t => t.cmdDesc)
      (exec (.se4 0x03FF0000) (running .eraseCmd 4 true (0x03FF0000, 0x03FFFFFF, 0) ⟨0x03FF0000, 0x03FFFFFF, 0, 0⟩)) =
      some ⟨0x5DC, 0x03FF0000, 0⟩ := by decide
theorem test_ce_frame : framed (exec .ce (plain .chipCmd 5)) = some (⟨0xC7, 0, 0⟩, some (plainCall 0xC7)) := by decide

/-! ### One step: spec/95 L2.1, L2.5 to L2.14 -/

theorem test_illegal_word : look (fun t => (t.stat.word, t.trace)) (step (hostDoes (wr .req 0xC) base)) = some (0x42, []) := by decide
theorem test_illegal_word_in_mm : accepted (step (hostDoes (wr .req 0) (mapped true))) = some (.idle, 0x342) := by decide

/-- L2.11, with BUSY_MASK = 0x01 and ADDR4 = 1: LAST_SR and the code to come, BUSY still 1; then `finish`. -/
theorem test_get_status_results :
    [0x00, 0x01, 0x02, 0x03, 0xFE, 0xFF].map (fun b => accepted (step (plain (.statusSave b) 6))) =
    [(0x00000101, .ok), (0x00010101, .busy), (0x00020101, .ok), (0x00030101, .busy), (0x00FE0101, .ok), (0x00FF0101, .busy)].map
      fun x => some (.running (.finish .getStatus x.2), x.1) := by decide
theorem test_get_status_finish : accepted (step (plain (.finish .getStatus .busy) 6)) = some (.idle, 0x122) := by decide
theorem test_get_status_byte :
    (accepted (step (answers (.rxData 1) (.data [0xFE]) (plain .statusData 6)))) = some (.running (.statusSave 0xFE), 0x101) := by decide

/-- L2.6: MMAP with ADDR4 = 1; R226: MMAP <- 1 comes before finish(OK), so BUSY is still 1. -/
theorem test_memory_mapped_entry :
    look (fun t => (t.stat.word, t.window.map CmdDesc.dw0, t.seq)) (step (plain .mapSet 8)) =
      some (0x301, some 0x00082D6C, .running (.finish .enterMm .ok)) := by decide

/-- R212: ADDR4 <- 0 before the EN4B frame, ADDR4 <- 1 before finish(OK). -/
theorem test_init_addr4 :
    accepted (step (plain .initClear 1)) = some (.running .initEn4b, 1) ∧
    accepted (step (running .initSet 1 false (0, 0, 0) ⟨0, 0, 0, 0⟩)) = some (.running (.finish .init .ok), 0x101) := by decide

/-- L2.6: EN4B's ready wait answered NOMATCH in INIT: NOT_SUPPORTED, ADDR4 stays 0. -/
theorem test_init_last_call_fails :
    accepted (step (answers (readyCall Params.sample .mode4b) (.noMatch [1]) (running .initEn4bReady 1 false (0, 0, 0) ⟨0, 0, 0, 0⟩))) =
      some (.running (.finish .init .notSupported), 1) ∧
    accepted (step (running (.finish .init .notSupported) 1 false (0, 0, 0) ⟨0, 0, 0, 0⟩)) = some (.idle, 0x42) := by decide

/-- L2.7, WRITE 0xFA, 20: the first chunk, the second, the end; and the first source byte. -/
theorem test_write_first_chunk :
    look (fun t => t.cursor) (step (running .writeChunk 3 true (0xFA, 20, 0x20000000) ⟨0xFA, 0x10E, 0, 0⟩)) =
      some ⟨0xFA, 0x10E, 6, 0⟩ := by decide
theorem test_write_second_chunk :
    look (fun t => (t.cursor, t.seq)) (step (running .writeNextChunk 3 true (0xFA, 20, 0x20000000) ⟨0x100, 0x10E, 6, 6⟩)) =
      some (⟨0x100, 0x10E, 14, 6⟩, .running (.gateWren .write)) := by decide
theorem test_write_ends :
    look (fun t => (t.cursor, t.seq)) (step (running .writeNextChunk 3 true (0xFA, 20, 0x20000000) ⟨0x10E, 0x10E, 14, 20⟩)) =
      some (⟨0x10E, 0x10E, 0, 20⟩, .running (.finish .write .ok)) := by decide
theorem test_write_reads_source :
    look (fun t => (t.trace, t.seq)) (step { running (.writeRead [0xA6]) 3 true (0xFA, 20, 0x20000000) ⟨0x100, 0x10E, 2, 6⟩ with
      mem := [(0x20000007, 0xA7)] }) = some ([.memRead 0x20000007 0xA7], .running (.writeData [0xA6, 0xA7])) := by decide

/-- L2.7's closed forms. -/
theorem test_chunks :
    chunks 256 0xFA 20 = [(0xFA, 6), (0x100, 14)] ∧ chunks 256 0xFF 258 = [(0xFF, 1), (0x100, 256), (0x200, 1)] ∧
    chunks 256 0x1F0 0x300 = [(0x1F0, 16), (0x200, 256), (0x300, 256), (0x400, 240)] ∧ chunks 256 0x100 0 = [(0x100, 0)] := by decide

/-- L2.8: the bytes of RxData go to the buffer, one a step; R241: after a failed RxData a free byte does. -/
theorem test_read_stores :
    look (fun t => (t.mem, t.seq)) (step (running (.readStore 2 [0xBE, 0xEF]) 2 true (0x1000, 4, 0x20000000) ⟨0, 0, 0, 0⟩)) =
      some ([(0x20000002, 0xBE)], .running (.readStore 3 [0xEF])) ∧
    look (fun t => (t.mem, t.seq)) (step (running (.readStore 3 [0xEF]) 2 true (0x1000, 4, 0x20000000) ⟨0, 0, 0, 0⟩)) =
      some ([(0x20000003, 0xEF)], .running (.finish .read .ok)) := by decide
theorem test_read_failed :
    look (fun t => (t.fresh, t.seq)) (step (running (.readAny 3) 2 true (0x1000, 4, 0x20000000) ⟨0, 0, 0, 0⟩)) =
      some (1, .running (.finish .read .transportError)) ∧
    look (fun t => t.seq) (step (answers (.rxData 0) .fail (running .readData 2 true (0x1000, 0, 0x20000000) ⟨0, 0, 0, 0⟩))) =
      some (.running (.finish .read .transportError)) := by decide

/-- L2.9: 0x0 .. 0x10000 erases a second sector after the first (spec/90 C3), and 0x100 .. 0x100 exactly one. -/
theorem test_erase_goes_on :
    look (fun t => (t.cursor.cur, t.seq)) (step (running .eraseNext 4 true (0, 0x10000, 0) ⟨0, 0x10000, 0, 0⟩)) =
      some (0x10000, .running (.gateWren .erase)) := by decide
theorem test_erase_ends :
    look (fun t => (t.cursor.cur, t.seq)) (step (running .eraseNext 4 true (0x100, 0x100, 0) ⟨0, 0x100, 0, 0⟩)) =
      some (0x10000, .running (.finish .erase .ok)) := by decide
theorem test_erase_addresses :
    eraseAddrs 0x10000 0x100 0x100 = [0] ∧ eraseAddrs 0x10000 0x12345 0x2FFFF = [0x10000, 0x20000] ∧
    eraseCount 0x10000 0 0x3FFFFFF = 1024 := by decide

/-- L2.12: GEO_PAGE_COUNT. -/
theorem test_geometry_read :
    look (fun t => t.trace) (step (hostDoes (rd .geoPageCount) base)) = some [.regRead 0x24 0x40000] := by decide

/-- L2.13, entered with ADDR4 = 1: the last word of the window, and a misaligned read. -/
theorem test_window_read :
    look (fun t => t.trace.map fun e => match e with
      | .windowRead h d bs => (h, d.dw0, d.addr, d.dlen, bs.length)
      | _ => (0, 0, 0, 0, 0)) (step (hostDoes (.windowRead 0x93FFFFFC 4) (mapped true))) =
      some [(0x93FFFFFC, 0x00082D6C, 0x03FFFFFC, 4, 4)] := by decide
theorem test_window_faults :
    (accepted (step (hostDoes (.windowRead 0x90000101 2) (mapped true)))).map Prod.fst = some (.faulted .windowAccess) ∧
    (accepted (step (hostDoes (.windowRead 0x90000000 8) (mapped true)))).map Prod.fst = some (.faulted .windowAccess) ∧
    (accepted (step (hostDoes (.windowWrite 0x90000000 1) (mapped true)))).map Prod.fst = some (.faulted .windowAccess) ∧
    (accepted (step (hostDoes (.windowRead 0x90000000 1) base))).map Prod.fst = some (.faulted .windowAccess) ∧
    (accepted (step (hostDoes (.windowRead 0x91000000 1) (mapped false)))).map Prod.fst = some (.faulted .windowAccess) := by decide

/-- L2.14. -/
theorem test_register_faults :
    (accepted (step (hostDoes (.regWrite 0x10 4 0) base))).map Prod.fst = some (.faulted .registerAccess) ∧
    (accepted (step (hostDoes (.regRead 0x28 4) base))).map Prod.fst = some (.faulted .registerAccess) ∧
    (accepted (step (hostDoes (.regRead 0x10 1) base))).map Prod.fst = some (.faulted .registerAccess) ∧
    (accepted (step (hostDoes (.regRead 0x12 4) base))).map Prod.fst = some (.faulted .registerAccess) := by decide

/-- A byte access goes by its host address: the register block (R86), the window (R95, R96), host memory. -/
theorem test_byte_accesses :
    (accepted (step (hostDoes (.store 0xA0001010 1) base))).map Prod.fst = some (.faulted .registerAccess) ∧
    (accepted (step (hostDoes (.load 0xA0001027) base))).map Prod.fst = some (.faulted .registerAccess) ∧
    (accepted (step (hostDoes (.load 0x93FFFFFF) base))).map Prod.fst = some (.faulted .windowAccess) ∧
    (accepted (step (hostDoes (.store 0x90000000 1) (mapped true)))).map Prod.fst = some (.faulted .windowAccess) ∧
    look (fun t => t.trace.length) (step (hostDoes (.load 0x93FFFFFF) (mapped true))) = some 1 ∧
    look (fun t => t.trace) (step (hostDoes (.load 0x94000000) (mapped true))) = some [.hostLoad 0x94000000 0] := by decide

/-- A table word placed as the next instruction runs in the very next step. -/
theorem test_placed_words :
    accepted (step (base.withFetchWord 32 0x6)) = some (.running .statusCmd, 1) ∧
    look (fun t => t.cmdDesc) (step (base.withFetchWord 32 0x800)) = some ⟨0x805, 0, 1⟩ := by decide

/-! ### Witnesses: for each statement of Obligations.lean, states and operands that meet the hypotheses of each of its clauses -/

/-- No request runs and the host writes `w` to REQ next; the agents move by default. -/
def ready (w : Word) (as : List Answer) (s : State) : State := { s with host := [wr .req w], transport := as }

theorem ready_presents {s : State} (w : Word) (as : List Answer) (h1 : s.turns = []) (h2 : s.seq = .idle) (h3 : s.call = none)
    (h4 : s.stat.busy = false) (h5 : s.stat.mmap = false) : (ready w as s).presents w [] as := ⟨h1, rfl, rfl, h2, h3, h4, h5⟩

/-- A WRITE of 20 bytes at 0xFA in its first chunk, at a position. -/
def writing (p : Pos) : State := running p 3 true (0xFA, 20, 0x20000000) ⟨0xFA, 0x10E, 6, 0⟩

/-- GET_GEOMETRY running while MMAP = 1. -/
def mappedGeometry : State :=
  { mapped true with
    seq := .running (.finish .getGeometry .ok), latch := ⟨7, 0, 0, 0⟩, stat := ⟨true, false, .ok, true, true, 0⟩ }

/-- The chip erase after its gate, with the gate's trace. -/
def gated : State :=
  { plain .chipCmd 5 with trace := exchange [(plainCall 0x06, .ok), (welCall Params.sample, .matched [2])] }

theorem base_idle : ∀ r, base.seq ≠ .faulted r := not_faulted (.inl rfl)
theorem mapped_idle (b : Bool) : ∀ r, (mapped b).seq ≠ .faulted r := not_faulted (.inl rfl)
theorem plain_runs (p : Pos) (op : BitVec 4) : ∀ r, (plain p op).seq ≠ .faulted r := not_faulted (.inr ⟨p, rfl⟩)
theorem withArgs_idle (a b c : Word) (d : Bool) : ∀ r, (withArgs a b c d).seq ≠ .faulted r := not_faulted (.inl rfl)

theorem test_witness_request_words :
    (∀ w ∈ ([1, 9] : List Word), w.extractLsb' 4 28 = 0 ∧ 1 ≤ (w.extractLsb' 0 4).toNat ∧ (w.extractLsb' 0 4).toNat ≤ 9) ∧
    ∀ w ∈ ([0, 0xA, 0x11, 0x80000001] : List Word),
      ¬ (w.extractLsb' 4 28 = 0 ∧ 1 ≤ (w.extractLsb' 0 4).toNat ∧ (w.extractLsb' 0 4).toNat ≤ 9) := by simp

theorem test_witness_decode_of_encode :
    Params.sample.valid = true ∧ encode Params.sample (.qfr3 0xFFFFFF 0xFFFFFFFF) = [0x00082B6B, 0x00FFFFFF, 0xFFFFFFFF] :=
  ⟨Params.sample_valid, by decide⟩

theorem test_witness_encode_of_decode : ∃ i, decode Params.sample .cmd [0x3332, 0x00FFFFFF, 0xFFFFFFFF] = .ok i := ⟨.pp3 0xFFFFFF 0xFFFFFFFF, by decide⟩

theorem test_witness_descriptor_fields :
    (base.desc .se 0xFFFFFFFF 0).dw0.extractLsb' 11 2 = 0 ∧ (base.desc .se 0xFFFFFFFF 0).dw0.extractLsb' 8 1 = 1 ∧
    (base.desc .ce 0 0).dw0.extractLsb' 8 1 = 0 := by decide

theorem test_witness_addressing_mode : (withArgs 0 0 0 true).stat.addr4 = true ∧ (withArgs 0 0 0 false).stat.addr4 = false := by decide

theorem test_witness_poll_answers :
    (welPoll Params.sample).mode = .bitsSet ∧ (readyPoll Params.sample).mode = .bitsClear ∧
    sampleMatches 2 (welPoll Params.sample) = true ∧ (∀ x ∈ ([0, 1] : List Byte), sampleMatches x (welPoll Params.sample) = false) := by decide

theorem test_witness_plain_requests :
    (∀ r, base.seq ≠ .faulted r) ∧ base.stat.busy = false ∧ base.stat.mmap = false := ⟨base_idle, rfl, rfl⟩

theorem test_witness_transfer_args :
    (withArgs 0x03FFFFFC 4 0x20000000 true).transferArgsOk ∧ (withArgs 0x00FFFFFC 4 0x2000FFFC false).transferArgsOk ∧
    (withArgs 0 0 0xFFFFFFFF true).transferArgsOk :=
  ⟨State.transferFault_none.1 (by decide), State.transferFault_none.1 (by decide), State.transferFault_none.1 (by decide)⟩

theorem test_witness_erase_args :
    (withArgs 0x03FFFFFF 0x03FFFFFF 0 true).eraseArgsOk ∧ (withArgs 0 0x00FFFFFF 0 false).eraseArgsOk :=
  ⟨State.eraseFault_none.1 (by decide), State.eraseFault_none.1 (by decide)⟩

theorem test_witness_memory_mapped_requests :
    (∀ r, (mapped true).seq ≠ .faulted r) ∧ (mapped true).stat.busy = false ∧ (mapped true).stat.mmap = true ∧
    Instr.init.port = .req ∧ Instr.init ≠ .getGeometry ∧ decodeRequest 0xA = .error .illegalRequest ∧ (mapped true).controlInv = true ∧
    Instr.wren.port = .cmd := ⟨mapped_idle true, rfl, rfl, rfl, by decide, by decide, by decide, rfl⟩

/-- One state for each of the three clauses, at the values where they meet. -/
theorem test_witness_transfer_faults :
    (¬ ((0x03FFFFFC : Nat) + 5 ≤ (withArgs 0x03FFFFFC 5 0 true).cfg.flashSize)) ∧
    (¬ ((0x04000000 : Nat) < (withArgs 0x04000000 0 0 true).cfg.flashSize)) ∧
    ((0x00FFFFFC : Nat) + 5 ≤ (withArgs 0x00FFFFFC 5 0 false).cfg.flashSize ∧ ¬ ((0x00FFFFFC : Nat) + 5 ≤ 2 ^ 24)) ∧
    ((withArgs 0 16 0x2000FFF1 true).stat.addr4 = true ∧ (0 : Nat) + 16 ≤ (withArgs 0 16 0x2000FFF1 true).cfg.flashSize ∧
      ¬ ((withArgs 0 16 0x2000FFF1 true).cfg.hostMemOk (0x2000FFF1 + 15) = true)) ∧
    ¬ ((0xFFFFFFF8 : Nat) + 16 ≤ 2 ^ 32) := by decide

theorem test_witness_erase_faults :
    (0x1FFFF : Nat) < 0x20000 ∧ (withArgs 0 0x04000000 0 true).cfg.flashSize ≤ 0x04000000 ∧
    ((withArgs 0 0x01000000 0 false).stat.addr4 = false ∧ (0x01000000 : Nat) < (withArgs 0 0x01000000 0 false).cfg.flashSize ∧
      (2 : Nat) ^ 24 ≤ 0x01000000) := by decide

theorem test_witness_busy : (plain .chipCmd 5).stat.busy = true ∧ ∀ r, (plain .chipCmd 5).seq ≠ .faulted r := ⟨rfl, plain_runs _ _⟩

theorem test_witness_illegal_word :
    (hostDoes (wr .req 0) (mapped true)).stat.busy = false ∧ (∀ r, (hostDoes (wr .req 0) (mapped true)).seq ≠ .faulted r) ∧
    ∀ w ∈ ([0, 0xA] : List Word), ¬ (1 ≤ w.toNat ∧ w.toNat ≤ 9) := ⟨rfl, mapped_idle true, by simp⟩

theorem test_witness_fixed_frames :
    ∀ p ∈ ([.gateWren .init, .initRsten, .initRstmem, .initEn4b, .enter4bEn4b, .chipCmd, .statusCmd] : List Pos),
      (plain p 0).seq = .running p ∧ (plain p 0).call = none := by decide

theorem test_witness_addressed_frames :
    ∀ b ∈ [false, true], ∀ p ∈ ([.writeCmd, .readCmd, .eraseCmd] : List Pos),
      (running p 0 b (0, 0, 0) ⟨0, 0, 0, 0⟩).seq = .running p ∧ (running p 0 b (0, 0, 0) ⟨0, 0, 0, 0⟩).call = none ∧
      (running p 0 b (0, 0, 0) ⟨0, 0, 0, 0⟩).stat.addr4 = b := by decide

theorem test_witness_frames_issued :
    (∃ t, exec .wren (plain (.gateWren .erase) 4) = .next t) ∧ (∃ t, exec .en4b (plain .initEn4b 1) = .next t) ∧
    (∃ t, exec (.pp4 0xFA 6) (writing .writeCmd) = .next t) := ⟨⟨_, rfl⟩, ⟨_, rfl⟩, ⟨_, rfl⟩⟩

theorem test_witness_step_runs_request :
    (∀ r, (hostDoes (wr .req 9) base).seq ≠ .faulted r) ∧ decodeRequest 9 = .ok .enter4b := ⟨base_idle, by decide⟩

theorem test_witness_step_runs_frame :
    (writing .writeCmd).frameDue = some (.pp4 0xFA 6) ∧
    decode Params.sample .cmd (programDesc 0x34 .a32 0xFA 6).words = .ok (.pp4 0xFA 6) := by decide

theorem test_witness_faulted :
    ({ base with seq := .faulted .outOfRange } : State).takeTurn.1 ≠ .blockReset ∧
    ({ base with seq := .faulted .outOfRange, turns := [.blockReset] } : State).takeTurn.1 = .blockReset := by decide

theorem test_witness_reset : ({ plain .chipReady 5 with turns := [.blockReset] } : State).turns = .blockReset :: [] := rfl

theorem test_witness_register_read (off : Nat) :
    (hostDoes (.regRead off 4) base).turns = .host :: [] ∧ (hostDoes (.regRead off 4) base).host = .regRead off 4 :: [] ∧
    ∀ r, (hostDoes (.regRead off 4) base).seq ≠ .faulted r := ⟨rfl, rfl, base_idle⟩

theorem test_witness_bad_register_access :
    (hostDoes (.regRead 0x28 4) base).host = .regRead 0x28 4 :: [] ∧ (hostDoes (.regWrite 0x10 4 0) base).host = .regWrite 0x10 4 0 :: [] ∧
    (hostDoes (.regWrite 0x0C 2 0) base).host = .regWrite 0x0C 2 0 :: [] ∧ (0x12 : Nat) % 4 ≠ 0 := ⟨rfl, rfl, rfl, by decide⟩

theorem test_witness_arg_write :
    (hostDoes (wr .arg2 0xFFFFFFFF) (plain .chipReady 5)).host = wr .arg2 0xFFFFFFFF :: [] ∧
    ∀ r, (hostDoes (wr .arg2 0xFFFFFFFF) (plain .chipReady 5)).seq ≠ .faulted r := ⟨rfl, plain_runs .chipReady 5⟩

theorem test_witness_window_read :
    (mapped true).windowAgrees = true ∧ (mapped true).stat.mmap = true ∧ (0x93FFFFFC : Nat) % 4 = 0 ∧
    (mapped true).cfg.mmBase.toNat ≤ 0x93FFFFFC ∧
    0x93FFFFFC + 4 ≤ (mapped true).cfg.mmBase.toNat + (mapped true).cfg.flashSize ∧
    (mapped false).windowAgrees = true ∧ (0x90FFFFFF : Nat) - (mapped false).cfg.mmBase.toNat + 1 - 1 < 2 ^ 24 := by decide

theorem test_witness_window_faults :
    base.stat.mmap = false ∧ (0x90000101 : Nat) % 2 ≠ 0 ∧ 0x8FFFFFFF < (mapped true).cfg.mmBase.toNat ∧
    (mapped true).cfg.mmBase.toNat + (mapped true).cfg.flashSize < 0x94000000 + 1 ∧
    ((mapped false).stat.addr4 = false ∧ 2 ^ 24 ≤ 0x91000000 - (mapped false).cfg.mmBase.toNat + 1 - 1) := by decide

theorem test_witness_wait :
    (hostDoes .wait base).host = .wait :: [] ∧ (hostDoes .wait base).stat.word.getLsbD 0 = false ∧
    (hostDoes .wait (plain .chipReady 5)).stat.word.getLsbD 0 = true := by decide

/-- A failed poll; a failed RxData of 20 bytes and of none; and `finish`. -/
theorem test_witness_first_failure :
    (answers (readyCall Params.sample .chip) (.noMatch [1]) (plain .chipReady 5)).callAt .chipReady = some (readyCall Params.sample .chip) ∧
    admits (readyCall Params.sample .chip) (.noMatch [1]) = true ∧
    (answers (.rxData 20) .fail (running .readData 2 true (0xFA, 20, 0x20000000) ⟨0, 0, 0, 0⟩)).callAt .readData = some (.rxData 20) ∧
    (answers (.rxData 0) .fail (running .readData 2 true (0xFA, 0, 0x20000000) ⟨0, 0, 0, 0⟩)).callAt .readData = some (.rxData 0) ∧
    admits (.rxData 20) .fail = true ∧
    (plain (.finish .eraseChip .timeoutError) 5).seq = .running (.finish .eraseChip .timeoutError) := by decide

theorem test_witness_no_silent_success :
    look (fun t => (t.seq, t.call)) (step (answers (readyCall Params.sample .chip) (.matched [1, 0]) (plain .chipReady 5))) =
      some (.running (.finish .eraseChip .ok), none) ∧
    look (fun t => (t.seq, t.call)) (step (answers (readyCall Params.sample .reset) (.matched [0]) (plain .initRstenReady 1))) =
      some (.running .initRstmem, none) := by decide

theorem test_witness_init_run :
    (ready 1 [.ok, .matched [2], .ok, .matched [1, 0], .ok, .matched [0], .ok, .matched [0]] base).presents 1 []
      [.ok, .matched [2], .ok, .matched [1, 0], .ok, .matched [0], .ok, .matched [0]] ∧
    matchedSamples (welPoll Params.sample) [2] = true ∧ matchedSamples (readyPoll Params.sample) [1, 0] = true :=
  ⟨ready_presents _ _ rfl rfl rfl rfl rfl, by decide, by decide⟩

/-- The first, the second, the sixth and the last call fail. -/
theorem test_witness_init_failure :
    (ready 1 [.fail] base).presents 1 [] [.fail] ∧ (ready 1 [.ok, .noMatch [0, 1]] base).presents 1 [] [.ok, .noMatch [0, 1]] ∧
    (ready 1 [.ok, .matched [2], .ok, .matched [0], .ok, .noMatch [1]] base).presents 1 []
      [.ok, .matched [2], .ok, .matched [0], .ok, .noMatch [1]] ∧
    (ready 1 [.ok, .matched [2], .ok, .matched [0], .ok, .matched [0], .ok, .noMatch []] base).presents 1 []
      [.ok, .matched [2], .ok, .matched [0], .ok, .matched [0], .ok, .noMatch []] ∧
    noMatchSamples (welPoll Params.sample) [0, 1] = true ∧ noMatchSamples (readyPoll Params.sample) [1] = true :=
  ⟨ready_presents _ _ rfl rfl rfl rfl rfl, ready_presents _ _ rfl rfl rfl rfl rfl, ready_presents _ _ rfl rfl rfl rfl rfl,
    ready_presents _ _ rfl rfl rfl rfl rfl, by decide, by decide⟩

theorem test_witness_enter_4b :
    (ready 9 [.ok, .matched [0]] base).presents 9 [] [.ok, .matched [0]] ∧ (ready 9 [.fail] base).presents 9 [] [.fail] ∧
    (ready 9 [.ok, .noMatch [1]] base).presents 9 [] [.ok, .noMatch [1]] ∧ noMatchSamples (readyPoll Params.sample) [1] = true :=
  ⟨ready_presents _ _ rfl rfl rfl rfl rfl, ready_presents _ _ rfl rfl rfl rfl rfl, ready_presents _ _ rfl rfl rfl rfl rfl, by decide⟩

theorem test_witness_enter_mm :
    (ready 8 [.ok] base).presents 8 [] [.ok] ∧ (ready 8 [.fail] base).presents 8 [] [.fail] :=
  ⟨ready_presents _ _ rfl rfl rfl rfl rfl, ready_presents _ _ rfl rfl rfl rfl rfl⟩

/-- READ: all succeeds, the frame fails, the data fails. -/
theorem test_witness_read_runs :
    let s := withArgs 0x1000 4 0x2000FFFC true
    (ready 2 [.ok, .data [1, 2, 3, 4]] s).presents 2 [] [.ok, .data [1, 2, 3, 4]] ∧
    (ready 2 [.fail] s).presents 2 [] [.fail] ∧ (ready 2 [.ok, .fail] s).presents 2 [] [.ok, .fail] ∧
    s.transferArgsOk ∧ s.mem.wf = true :=
  ⟨ready_presents _ _ rfl rfl rfl rfl rfl, ready_presents _ _ rfl rfl rfl rfl rfl, ready_presents _ _ rfl rfl rfl rfl rfl,
    State.transferFault_none.1 (by decide), rfl⟩

/-- WRITE of 20 bytes at 0xFA (two chunks) and of no byte (one); the second ready wait takes two samples. -/
theorem test_witness_write_runs :
    let as : List Answer := [.ok, .matched [2], .ok, .ok, .matched [0], .ok, .matched [2], .ok, .ok, .matched [1, 0]]
    let b (k : Nat) : List Byte := if k = 0 then [0] else [1, 0]
    let s := ready 3 as (withArgs 0xFA 20 0x20000000 true)
    s.presents 3 [] as ∧ s.cfg.valid = true ∧ s.transferArgsOk ∧ chunkCount s.cfg.pageSize 0xFA 20 = 2 ∧
    ((List.range 2).flatMap fun k => s.chunkCalls (chunkAt 256 0xFA 20 k) [2] (b k)).map Prod.snd ++ [] = as ∧
    samplesMatch (welPoll s.cfg) 2 (fun _ => [2]) ∧ samplesMatch (readyPoll s.cfg) 2 b ∧
    chunkCount 256 0x100 0 = 1 ∧ (withArgs 0x100 0 0x20000000 true).transferArgsOk :=
  ⟨ready_presents _ _ rfl rfl rfl rfl rfl, Params.sample_valid, State.transferFault_none.1 (by decide), by decide, rfl,
    fun k hk => by interval_cases k <;> decide, fun k hk => by interval_cases k <;> decide, by decide,
    State.transferFault_none.1 (by decide)⟩

/-- ERASE_SECTOR_RANGE of 0x100 .. 0x100 (one sector) and 0x0 .. 0x10000 (two). -/
theorem test_witness_erase_runs :
    let as : List Answer := [.ok, .matched [2], .ok, .matched [1, 0], .ok, .matched [2], .ok, .matched [1, 0]]
    let s := ready 4 as (withArgs 0 0x10000 0 true)
    s.presents 4 [] as ∧ s.cfg.valid = true ∧ s.eraseArgsOk ∧ eraseCount s.cfg.sectorSize 0 0x10000 = 2 ∧
    ((List.range 2).flatMap fun k => s.sectorCalls (eraseAddrAt 0x10000 0 k) [2] [1, 0]).map Prod.snd ++ [] = as ∧
    samplesMatch (welPoll s.cfg) 2 (fun _ => [2]) ∧ samplesMatch (readyPoll s.cfg) 2 (fun _ => [1, 0]) ∧
    eraseCount 0x10000 0x100 0x100 = 1 ∧ (withArgs 0x100 0x100 0 true).eraseArgsOk :=
  ⟨ready_presents _ _ rfl rfl rfl rfl rfl, Params.sample_valid, State.eraseFault_none.1 (by decide), by decide, rfl,
    fun k hk => by interval_cases k <;> decide, fun k hk => by interval_cases k <;> decide, by decide,
    State.eraseFault_none.1 (by decide)⟩

theorem test_witness_erase_chip_runs :
    (ready 5 [.ok, .matched [2], .ok, .matched [0]] base).presents 5 [] [.ok, .matched [2], .ok, .matched [0]] ∧
    (ready 5 [.ok, .matched [2], .ok, .noMatch [1]] base).presents 5 [] [.ok, .matched [2], .ok, .noMatch [1]] ∧
    noMatchSamples (readyPoll Params.sample) [1] = true :=
  ⟨ready_presents _ _ rfl rfl rfl rfl rfl, ready_presents _ _ rfl rfl rfl rfl rfl, by decide⟩

theorem test_witness_get_status_runs : (ready 6 [.ok, .data [0xFF]] base).presents 6 [] [.ok, .data [0xFF]] :=
  ready_presents _ _ rfl rfl rfl rfl rfl

theorem test_witness_get_geometry_runs :
    let s := ready 7 [] (mapped true)
    s.turns = [] ∧ s.host = wr .req 7 :: [] ∧ s.seq = .idle ∧ s.call = none ∧ s.stat.busy = false := ⟨rfl, rfl, rfl, rfl, rfl⟩

theorem test_witness_counts :
    0 + 1 < chunkCount 256 0xFA 20 ∧ (0xFF, 1) ∈ chunks 256 0xFF 2 ∧ (0x20000, 0x20000).1 ≤ (0x20000, 0x20000).2 := by decide

/-- An outstanding call, the sequencer's turn. -/
theorem test_witness_outstanding_call :
    let s : State := { answers (readyCall Params.sample .program) (.matched [0]) (writing .writeReady) with turns := [.sequencer] }
    s.controlInv = true ∧ s.callAgrees = true ∧ s.call = some (readyCall Params.sample .program) ∧ ∃ t, step s = .next t :=
  ⟨by decide, by decide, rfl, _, rfl⟩

/-- A running WRITE with its call outstanding meets the three invariants and steps. -/
theorem test_witness_invariants :
    let s := answers (readyCall Params.sample .program) (.matched [0]) (writing .writeReady)
    s.controlInv = true ∧ s.operandInv = true ∧ s.callAgrees = true ∧ s.mem.wf = true ∧ (∃ t, step s = .next t) :=
  ⟨by decide, by rw [State.operandInv, show State.cfg _ = Params.sample from rfl, Params.sample_valid]; decide, by decide, rfl, _, rfl⟩

theorem test_witness_gate_trace :
    gated.controlInv = true ∧ gated.callAgrees = true ∧ gated.gateTraceOk ∧ Instr.ce.mutating = true ∧
    (∃ t, exec .ce gated = .next t) ∧ ∃ t, step gated = .next t :=
  ⟨by decide, by decide, (⟨[], [2], by decide, rfl⟩ : gateDone Params.sample gated.trace), rfl, ⟨_, rfl⟩, _, rfl⟩

theorem test_witness_well_formed_frames :
    (writing .writeCmd).operandInv = true ∧ (writing .writeCmd).frameDue = some (.pp4 0xFA 6) :=
  ⟨by rw [State.operandInv, show State.cfg _ = Params.sample from rfl, Params.sample_valid]; decide, by decide⟩

theorem test_witness_completion :
    (plain (.finish .eraseChip .timeoutError) 5).controlInv = true ∧
    look (fun t => t.seq) (step (plain (.finish .eraseChip .timeoutError) 5)) = some .idle ∧
    (plain (.finish .eraseChip .timeoutError) 5).takeTurn.1 ≠ .blockReset := by decide

theorem test_witness_mode_changes :
    look (fun t => t.stat.addr4) (step (running .enter4bSet 9 false (0, 0, 0) ⟨0, 0, 0, 0⟩)) = some true ∧
    look (fun t => t.stat.mmap) (step (plain .mapSet 8)) = some true ∧
    look (fun t => t.stat.lastSr) (step (plain (.statusSave 7) 6)) = some 7 := by decide

/-- While MMAP = 1: GET_GEOMETRY accepted, and running. -/
theorem test_witness_mm_quiet :
    (mapped true).controlInv = true ∧ (mapped true).stat.mmap = true ∧ (hostDoes (wr .req 7) (mapped true)).takeTurn.1 ≠ .blockReset ∧
    accepted (step (hostDoes (wr .req 7) (mapped true))) = some (.running (.finish .getGeometry .ok), 0x301) ∧
    mappedGeometry.controlInv = true ∧ mappedGeometry.stat.busy = true := by decide

/-- A step of an agent, and block reset. -/
theorem test_witness_trace :
    (plain .statusCmd 6).takeTurn.1 ≠ .blockReset ∧ (∃ t, step (plain .statusCmd 6) = .next t) ∧
    ({ gated with turns := [.blockReset] } : State).takeTurn.1 = .blockReset ∧
    ∃ t, step { gated with turns := [.blockReset] } = .next t := ⟨by decide, ⟨_, rfl⟩, rfl, _, rfl⟩

theorem test_witness_host_while_running :
    (hostDoes (.load 0) (writing .writeReady)).stat.busy = true ∧ ∃ t, step (hostDoes (.load 0) (writing .writeReady)) = .next t :=
  ⟨rfl, _, rfl⟩

/-- The first and the last byte of the buffer, and the byte after it, stored and loaded; the first byte of the register block and of the window. -/
theorem test_witness_running_buffer :
    step (hostDoes (.store 0x20000000 1) (writing .writeReady)) = .refused .hostTouchesBuffer ∧
    step (hostDoes (.store 0x20000013 1) (writing .writeReady)) = .refused .hostTouchesBuffer ∧
    step (hostDoes (.load 0x20000013) (writing .writeReady)) = .refused .hostTouchesBuffer ∧
    look (fun t => t.mem) (step (hostDoes (.store 0x20000014 1) (writing .writeReady))) = some [(0x20000014, 1)] ∧
    look (fun t => t.trace) (step (hostDoes (.load 0x20000014) (writing .writeReady))) = some [.hostLoad 0x20000014 0] ∧
    look (fun t => t.seq) (step (hostDoes (.store 0xA0001000 1) (writing .writeReady))) = some (.faulted .registerAccess) ∧
    look (fun t => t.seq) (step (hostDoes (.load 0x90000000) (writing .writeReady))) = some (.faulted .windowAccess) :=
  ⟨rfl, rfl, rfl, by decide, by decide, by decide, by decide⟩

/-- Each position that places an auto-poll. -/
theorem test_witness_polls :
    ∀ p ∈ ([.gateWel .init, .initRstenReady, .initRstmemReady, .initEn4bReady, .enter4bReady, .writeReady, .eraseReady, .chipReady] :
        List Pos),
      (plain p 0).seq = .running p ∧ (plain p 0).call = none := by decide

end Sys2Proof.Tests
end

/-! ## O50: the write-enable gate in the trace (spec/41 R180 to R182) -/

namespace Sys2Proof.Machine

/-! ### The positions the gate's trace speaks of -/

/-- The positions at which, with no call outstanding, `State.gateTraceOk` asks the trace for the calls of the gate: the gate's poll, which follows WREN, and
the frames the gate guards (spec/41 R182). -/
def Pos.owesGate : Pos → Bool
  | .gateWel _ | .initRsten | .writeCmd | .eraseCmd | .chipCmd => true
  | _ => false

/-- With no call outstanding nothing is asked of the trace except at the positions that owe it the gate. -/
theorem State.gateTraceOk_of_no_call {s : State} {p : Pos} (hs : s.seq = .running p) (hc : s.call = none) (hp : p.owesGate = false) :
    s.gateTraceOk := by
  unfold State.gateTraceOk
  rw [hs, hc]
  cases p with
  | gateWel _ | initRsten | writeCmd | eraseCmd | chipCmd => cases hp
  | _ => trivial

/-- While a call is outstanding nothing is asked of the trace except inside the gate. -/
theorem State.gateTraceOk_outside_gate {s : State} {p : Pos} {c : Call} (hs : s.seq = .running p) (hc : s.call = some c)
    (h1 : ∀ u, p ≠ .gateWren u) (h2 : ∀ u, p ≠ .gateWel u) : s.gateTraceOk := by
  unfold State.gateTraceOk
  rw [hs, hc]
  cases p with
  | gateWren u => exact absurd rfl (h1 u)
  | gateWel u => exact absurd rfl (h2 u)
  | _ => trivial

/-- Where no request runs nothing is asked of the trace. -/
theorem State.gateTraceOk_of_not_running {s : State} (hs : ∀ p, s.seq ≠ .running p) : s.gateTraceOk := by
  unfold State.gateTraceOk
  cases h : s.seq with
  | running p => exact absurd h (hs p)
  | idle | faulted _ => trivial

/-- What is asked of the trace reads the position, the outstanding call, the parameters and what passed on the bus, nothing else. -/
theorem State.gateTraceOk_congr {s t : State} (hs : t.seq = s.seq) (hc : t.call = s.call) (hp : t.cfg = s.cfg)
    (ht : busEvents t.trace = busEvents s.trace) (h : s.gateTraceOk) : t.gateTraceOk := by
  simpa only [State.gateTraceOk, gateDone, wrenDone, hs, hc, hp, ht] using h

/-! ### Where a program goes on -/

@[simp] theorem readStoreFrom_owesGate (i : Nat) (bs : List Byte) : (readStoreFrom i bs).owesGate = false := by cases bs <;> rfl

@[simp] theorem State.readAnyFrom_owesGate (s : State) (i : Nat) : (s.readAnyFrom i).owesGate = false := by
  unfold State.readAnyFrom; split <;> rfl

@[simp] theorem State.writeReadFrom_owesGate (s : State) (got : List Byte) : (s.writeReadFrom got).owesGate = false := by
  unfold State.writeReadFrom; split <;> rfl

@[simp] theorem State.writeLoop_owesGate (s : State) : s.writeLoop.owesGate = false := by unfold State.writeLoop; split <;> rfl

@[simp] theorem State.eraseLoop_owesGate (s : State) : s.eraseLoop.owesGate = false := by unfold State.eraseLoop; split <;> rfl

/-- The end of a program owes nothing, so a call's continuation owes only what its success owes. -/
theorem owesGate_of_orFinish {good : Bool} {q : Pos} {i : Instr} {c : ResultCode} (h : (orFinish good q i c).owesGate = true) :
    q.owesGate = true := by
  cases good with
  | true => exact h
  | false => cases h

/-- Every request starts at a position that owes nothing: the gate is entered at WREN (spec/41 R180). -/
theorem startOf_owesGate (i : Instr) : (startOf i).owesGate = false := by cases i <;> rfl

/-- A statement that moves on without a call goes to a position that owes nothing. -/
theorem State.perform_owesGate {s : State} {p q : Pos} (hp : s.frameAt p = none) (hw : ∀ u, p ≠ .gateWel u)
    (hs : s.seq = .running p) (hq : (s.perform p).seq = .running q) : q.owesGate = false := by
  cases p with
  | gateWel u => exact absurd rfl (hw u)
  | gateWren _ | initRsten | initRstmem | initEn4b | enter4bEn4b | readCmd | writeCmd | eraseCmd | chipCmd | statusCmd => cases hp
  | readStore i rest => cases rest <;> cases hq <;> simp
  | readAny _ | writeRead _ | writeNextChunk | eraseEnda | eraseNext => cases hq; simp
  | finish _ _ => cases hq
  | initRstenReady | initRstmemReady | initEn4bReady | enter4bReady | mapCfg | readData | writeData _ | writeReady | eraseReady | chipReady
  | statusData => cases hs.symm.trans hq; rfl
  | _ => cases hq; rfl

/-- An answer leads to a position that owes the gate only from inside the gate, and only by success (spec/41 R181, R182). -/
theorem State.after_owesGate {s : State} {a : Answer} {p : Pos} (h : (s.after a p).owesGate = true) :
    a.good = true ∧ ∃ u, (p = .gateWren u ∧ s.after a p = .gateWel u) ∨ (p = .gateWel u ∧ s.after a p = gateReturn u) := by
  cases p with
  | gateWren u =>
    cases hg : a.good with
    | true => exact ⟨rfl, u, .inl ⟨rfl, by simp [State.after, afterGateWren, hg]⟩⟩
    | false => simp [State.after, afterGateWren, hg, Pos.owesGate] at h
  | gateWel u =>
    cases hg : a.good with
    | true => exact ⟨rfl, u, .inr ⟨rfl, by simp [State.after, afterGateWel, hg]⟩⟩
    | false => simp [State.after, afterGateWel, hg, Pos.owesGate] at h
  | readData => simp only [State.after] at h; split at h <;> simp at h
  | writeCmd => simpa using owesGate_of_orFinish h
  | initRsten | initRstenReady | initRstmem | initRstmemReady | initEn4b | initEn4bReady | enter4bEn4b | enter4bReady | mapCfg | readCmd
  | writeData _ | writeReady | eraseCmd | eraseReady | chipCmd | chipReady | statusCmd | statusData => cases owesGate_of_orFinish h
  | _ => cases h

/-! ### The answers that count as success -/

theorem admits_issueCmd_good {d : CmdDesc} {a : Answer} (h : admits (.issueCmd d) a = true) (hg : a.good = true) : a = .ok := by
  cases a with
  | ok => rfl
  | fail => cases hg
  | _ => cases h

theorem admits_autoPoll_good {d : CmdDesc} {q : PollDesc} {c : PollClass} {a : Answer} (h : admits (.autoPoll d q c) a = true)
    (hg : a.good = true) : ∃ ss, a = .matched ss ∧ matchedSamples q ss = true := by
  cases a with
  | matched ss => exact ⟨ss, rfl, h⟩
  | noMatch ss => cases hg
  | _ => cases h

/-! ### Every move keeps it -/

/-- A frame is placed: inside the gate it is WREN, elsewhere nothing is asked of the trace. -/
theorem State.gateTraceOk_callIssueCmd {s : State} {p : Pos} {i : Instr} {d : CmdDesc} (hs : s.seq = .running p)
    (hi : s.frameAt p = some i) (hd : frameDesc s.cfg i = some d) : (s.callIssueCmd d).gateTraceOk := by
  by_cases hp : ∃ u, p = .gateWren u
  · obtain ⟨u, rfl⟩ := hp
    cases hi
    cases hd
    simp only [State.gateTraceOk, State.callIssueCmd_seq, State.callIssueCmd_call, hs]
    exact ⟨busEvents s.trace, busEvents_append _ _⟩
  · exact State.gateTraceOk_outside_gate hs rfl (fun u h => hp ⟨u, h⟩) fun u h => by subst h; cases hi

/-- The gate's poll is placed after WREN was answered OK. -/
theorem State.gateTraceOk_callWelPoll {s : State} {u : GateUser} (hs : s.seq = .running (.gateWel u)) (h : wrenDone s.cfg s.trace) :
    s.callWelPoll.gateTraceOk := by
  obtain ⟨pre, h⟩ := h
  simp only [State.gateTraceOk, State.callWelPoll, State.callAutoPoll_seq, State.callAutoPoll_call, hs]
  exact ⟨pre, by rw [State.callAutoPoll_trace, busEvents_append, h, List.append_assoc]; rfl⟩

/-- A statement that is no IssueCmd keeps what is asked of the trace. -/
theorem State.gateTraceOk_perform {s : State} {p : Pos} (hg : s.gateTraceOk) (hs : s.seq = .running p) (hc : s.call = none)
    (hi : s.frameAt p = none) : (s.perform p).gateTraceOk := by
  by_cases hp : ∃ u, p = .gateWel u
  · obtain ⟨u, rfl⟩ := hp
    refine State.gateTraceOk_callWelPoll hs ?_
    simpa only [State.gateTraceOk, hs, hc] using hg
  · have hw : ∀ u, p ≠ .gateWel u := fun u h => hp ⟨u, h⟩
    rcases s.perform_goes hi with ⟨hseq, -, -⟩ | ⟨hcall, ⟨q, hq, -⟩, -⟩ | ⟨i, c, rfl, ht⟩
    · have hsame := hseq.trans hs
      cases hcall : (s.perform p).call with
      | none => exact State.gateTraceOk_of_no_call hsame hcall (State.perform_owesGate hi hw hs hsame)
      | some c => exact State.gateTraceOk_outside_gate hsame hcall (fun u h => by subst h; cases hi) hw
    · exact State.gateTraceOk_of_no_call hq (hcall.trans hc) (State.perform_owesGate hi hw hs hq)
    · rw [ht]
      exact State.gateTraceOk_of_not_running fun _ h => by cases h

/-- The answer to WREN. -/
theorem State.wrenDone_answered {s : State} {u : GateUser} {c : Call} {a : Answer} (ha : s.callAgrees = true) (hg : s.gateTraceOk)
    (hs : s.seq = .running (.gateWren u)) (hc : s.call = some c) (had : admits c a = true) (hgood : a.good = true) :
    wrenDone s.cfg (s.trace ++ [.answer a]) := by
  cases State.callAgrees_running ha hs hc
  cases admits_issueCmd_good had hgood
  simp only [State.gateTraceOk, hs, hc] at hg
  obtain ⟨pre, hg⟩ := hg
  exact ⟨pre, by rw [busEvents_append, hg, List.append_assoc]; rfl⟩

/-- The answer to the gate's poll. -/
theorem State.gateDone_answered {s : State} {u : GateUser} {c : Call} {a : Answer} (ha : s.callAgrees = true) (hg : s.gateTraceOk)
    (hs : s.seq = .running (.gateWel u)) (hc : s.call = some c) (had : admits c a = true) (hgood : a.good = true) :
    gateDone s.cfg (s.trace ++ [.answer a]) := by
  cases State.callAgrees_running ha hs hc
  obtain ⟨ss, rfl, hss⟩ := admits_autoPoll_good had hgood
  simp only [State.gateTraceOk, hs, hc] at hg
  obtain ⟨pre, hg⟩ := hg
  exact ⟨pre, ss, hss, by rw [busEvents_append, hg, List.append_assoc]; rfl⟩

/-- An answer of the transport keeps what is asked of the trace: only a successful call of the gate leads to a position that owes it. -/
theorem State.gateTraceOk_answered {s : State} {p : Pos} {c : Call} {a : Answer} (rest : List Answer) (ha : s.callAgrees = true)
    (hg : s.gateTraceOk) (hs : s.seq = .running p) (hc : s.call = some c) (had : admits c a = true) :
    (State.answered p a { s with transport := rest }).gateTraceOk := by
  cases hq : (State.after { s with transport := rest } a p).owesGate with
  | false => exact State.gateTraceOk_of_no_call rfl rfl hq
  | true =>
    obtain ⟨hgood, u, ⟨rfl, hn⟩ | ⟨rfl, hn⟩⟩ := State.after_owesGate hq
    · simp only [State.gateTraceOk, State.answered_seq, State.answered_call, hn]
      exact State.wrenDone_answered ha hg hs hc had hgood
    · have hd := State.gateDone_answered ha hg hs hc had hgood
      simp only [State.gateTraceOk, State.answered_seq, State.answered_call, hn]
      cases u <;> exact hd

/-- The host's reads pass nothing between THE CORE and the transport. -/
theorem busEvents_ofHost {e : Event} (h : e.ofHost = true) : busEvents [e] = [] := by
  cases e with
  | regRead _ _ | windowRead _ _ _ | hostLoad _ _ => rfl
  | _ => cases h

/-- Every move of an agent keeps what is asked of the trace. -/
theorem Move.keeps_gateTraceOk {s t : State} (hi : s.controlInv = true) (ha : s.callAgrees = true) (hg : s.gateTraceOk)
    (hf : ∀ r, s.seq ≠ .faulted r) (h : Move s t) : t.gateTraceOk := by
  cases h with
  | stay => exact hg
  | issue p i d hs _ hfr hd => exact State.gateTraceOk_callIssueCmd hs hfr hd
  | perform p hs hc hfr => exact State.gateTraceOk_perform hg hs hc hfr
  | answer p c a rest hs hc _ had => exact State.gateTraceOk_answered rest ha hg hs hc had
  | fault r host => exact State.gateTraceOk_of_not_running fun _ h => by cases h
  | accept i host _ hb _ _ =>
    have hidle : s.seq = .idle := State.controlInv_idle hi hf hb
    have hc : s.call = none := by
      cases hc : s.call with
      | none => rfl
      | some c => simp [State.callAgrees, hidle, hc] at ha
    exact State.gateTraceOk_of_no_call rfl hc (startOf_owesGate i)
  | illegal host hb => exact State.gateTraceOk_congr rfl rfl rfl rfl hg
  | arg args host => exact State.gateTraceOk_congr rfl rfl rfl rfl hg
  | store a b host hb => exact State.gateTraceOk_congr rfl rfl rfl rfl hg
  | observe e host he =>
    refine State.gateTraceOk_congr (s := s) rfl rfl rfl ?_ hg
    rw [busEvents_append, busEvents_ofHost he, List.append_nil]

/-- Settles O50: a step is block reset, which leaves no request running, or a move of an agent, and each move keeps it. -/
theorem gateTraceKept : Obligations.GateTraceKept := by
  intro s t hi ha hg h
  obtain ⟨ts, ⟨-, rfl⟩ | ⟨-, hf, hm⟩⟩ := step_move h
  · exact State.gateTraceOk_of_not_running fun _ h => by cases h
  · exact Move.keeps_gateTraceOk (s := { s with turns := ts }) hi ha hg hf hm

end Sys2Proof.Machine

/-! ## The words of the descriptors THE CORE builds (spec/30 R115, R120, R126) -/

namespace Sys2Proof

/-- The fields of DW0 that a kind fixes, each at its place: DWIDTH, DDIR, AWIDTH and ADDR_PRESENT (spec/30 R115, R116). -/
def layoutWord (w : DWidth) (r : DDir) (a : AWidth) : Word :=
  0#18 ++ w.bits ++ r.bits ++ a.bits ++ BitVec.ofBool (a != .none) ++ 0#8

/-- DW0 by its three parts: the layout, DUMMY and INSTR (spec/30 R115). -/
theorem CmdDesc.dw0_eq (d : CmdDesc) :
    d.dw0 = layoutWord d.dwidth d.ddir d.awidth ||| d.dummy.setWidth 32 <<< 16 ||| d.instr.setWidth 32 := by
  unfold CmdDesc.dw0 CmdDesc.addrPresent layoutWord
  generalize d.dwidth.bits = w, d.ddir.bits = r, d.awidth.bits = a, BitVec.ofBool (d.awidth != .none) = q
  refine BitVec.eq_of_getLsbD_eq fun j hj => ?_
  simp only [BitVec.getLsbD_or, BitVec.getLsbD_append, BitVec.getLsbD_shiftLeft, BitVec.getLsbD_setWidth]
  interval_cases j <;> simp

/-- DW0 of a frame without dummy cycles. -/
theorem CmdDesc.dw0_of_dummy_zero {d : CmdDesc} (h : d.dummy = 0) :
    d.dw0 = layoutWord d.dwidth d.ddir d.awidth ||| d.instr.setWidth 32 := by
  rw [CmdDesc.dw0_eq, h]
  simp

/-- The fields of PW0 between INTERVAL and SR_INSTR, each at its place: SR_BYTES_M1, AUTO_STOP and MODE (spec/30 R120). -/
def pollFlags (n : BitVec 2) (stop : Bool) (m : PollMode) : Word := 0#20 ++ n ++ BitVec.ofBool stop ++ m.bit ++ 0#8

/-- PW0 by its three parts: INTERVAL, the flags and SR_INSTR (spec/30 R120). -/
theorem PollDesc.pw0_eq (p : PollDesc) :
    p.pw0 = p.interval.setWidth 32 <<< 16 ||| pollFlags p.srBytesM1 p.autoStop p.mode ||| p.srInstr.setWidth 32 := by
  unfold PollDesc.pw0 pollFlags
  generalize BitVec.ofBool p.autoStop = a, p.mode.bit = q
  refine BitVec.eq_of_getLsbD_eq fun j hj => ?_
  simp only [BitVec.getLsbD_or, BitVec.getLsbD_append, BitVec.getLsbD_shiftLeft, BitVec.getLsbD_setWidth]
  interval_cases j <;> simp

/-! ### The layouts of R126 -/

theorem layoutWord_plain : layoutWord .x1 .none .none = 0x00000000 := by decide
theorem layoutWord_status : layoutWord .x1 .read .none = 0x00000800 := by decide
theorem layoutWord_program24 : layoutWord .x4 .write .a24 = 0x00003300 := by decide
theorem layoutWord_program32 : layoutWord .x4 .write .a32 = 0x00003500 := by decide
theorem layoutWord_quadRead24 : layoutWord .x4 .read .a24 = 0x00002B00 := by decide
theorem layoutWord_quadRead32 : layoutWord .x4 .read .a32 = 0x00002D00 := by decide
theorem layoutWord_sector24 : layoutWord .x1 .none .a24 = 0x00000300 := by decide
theorem layoutWord_sector32 : layoutWord .x1 .none .a32 = 0x00000500 := by decide

end Sys2Proof

namespace Sys2Proof.Machine

/-! ### CMD_DESC and POLL_DESC (spec/10 R50, R51) -/

theorem cmdRegs_plainDesc (code : Byte) : cmdRegs (plainDesc code) = ⟨0x00000000 ||| code.setWidth 32, 0, 0⟩ := by
  rw [cmdRegs, CmdDesc.dw0_of_dummy_zero rfl, ← layoutWord_plain]
  rfl

theorem cmdRegs_statusDesc (code : Byte) : cmdRegs (statusDesc code) = ⟨0x00000800 ||| code.setWidth 32, 0, 1⟩ := by
  rw [cmdRegs, CmdDesc.dw0_of_dummy_zero rfl, ← layoutWord_status]
  rfl

theorem cmdRegs_programDesc (code : Byte) (w : AWidth) (a n : Word) :
    cmdRegs (programDesc code w a n) = ⟨layoutWord .x4 .write w ||| code.setWidth 32, a, n⟩ := by
  rw [cmdRegs, CmdDesc.dw0_of_dummy_zero rfl]
  rfl

theorem cmdRegs_quadReadDesc (code : Byte) (w : AWidth) (k : BitVec 5) (a n : Word) :
    cmdRegs (quadReadDesc code w k a n) = ⟨layoutWord .x4 .read w ||| k.setWidth 32 <<< 16 ||| code.setWidth 32, a, n⟩ := by
  rw [cmdRegs, CmdDesc.dw0_eq]
  rfl

theorem cmdRegs_sectorDesc (code : Byte) (w : AWidth) (a : Word) :
    cmdRegs (sectorDesc code w a) = ⟨layoutWord .x1 .none w ||| code.setWidth 32, a, 0⟩ := by
  rw [cmdRegs, CmdDesc.dw0_of_dummy_zero rfl]
  rfl

theorem pollRegs_pollOf (p : Params) (mask : Byte) (m : PollMode) :
    pollRegs (pollOf p mask m) =
      ⟨p.pollInterval.setWidth 32 <<< 16 ||| pollFlags 0 true m ||| p.cmdRdsr.setWidth 32, mask.setWidth 32⟩ := by
  rw [pollRegs, PollDesc.pw0_eq]
  rfl

theorem pollFlags_set : pollFlags 0 true .bitsSet = 0x0200 := by decide
theorem pollFlags_clear : pollFlags 0 true .bitsClear = 0x0300 := by decide

/-- The three words of a descriptor, as CMD_DESC holds them. -/
theorem words_of_cmdRegs {d : CmdDesc} {w0 w1 w2 : Word} (h : cmdRegs d = ⟨w0, w1, w2⟩) : d.words = [w0, w1, w2] := by
  cases h
  rfl

/-! ### A frame at its statement (spec/40 R160 to R171) -/

/-- A frame that is due is its IssueCmd: CMD_DESC takes its words, the call is outstanding and in the trace, nothing else changes. -/
theorem exec_at_statement {s : State} {p : Pos} {i : Instr} {d : CmdDesc} {r : CmdWords} (hs : s.seq = .running p) (hc : s.call = none)
    (hi : s.frameAt p = some i) (hd : frameDesc s.cfg i = some d) (hr : cmdRegs d = r) :
    exec i s = .next { s with cmdDesc := r, call := some (.issueCmd d), trace := s.trace ++ [.call (.issueCmd d)] } := by
  obtain ⟨e, he, hx⟩ := exec_due (State.frameDue_eq_some.2 ⟨p, hs, hc, hi⟩)
  cases hd.symm.trans he
  rw [hx, ← hr]
  rfl

/-- Settles O18: each frame is due at its statement, and its words are those of the plain or the status layout. -/
theorem fixedFramesIssued : Obligations.FixedFramesIssued := by
  intro s p hs hc
  have plain {i : Instr} {code : Byte} (hi : s.frameAt p = some i) (hd : frameDesc s.cfg i = some (plainDesc code)) :=
    exec_at_statement hs hc hi hd (cmdRegs_plainDesc code)
  refine ⟨?_, ?_, ?_, ?_, ?_, ?_⟩
  · rintro ⟨u, rfl⟩; exact plain rfl rfl
  · rintro rfl; exact plain rfl rfl
  · rintro rfl; exact plain rfl rfl
  · rintro (rfl | rfl) <;> exact plain rfl rfl
  · rintro rfl; exact plain rfl rfl
  · rintro rfl; exact exec_at_statement hs hc rfl rfl (cmdRegs_statusDesc _)

/-! The addressing-mode multiplexer in each mode (spec/40 R152, R153). -/

section
variable {s : State} (a n : Word)

theorem State.programFrame_addr3 (h : s.stat.addr4 = false) : s.programFrame a n = .pp3 (low24 a) n := by simp [State.programFrame, h]
theorem State.programFrame_addr4 (h : s.stat.addr4 = true) : s.programFrame a n = .pp4 a n := by simp [State.programFrame, h]
theorem State.quadReadFrame_addr3 (h : s.stat.addr4 = false) : s.quadReadFrame a n = .qfr3 (low24 a) n := by
  simp [State.quadReadFrame, h]
theorem State.quadReadFrame_addr4 (h : s.stat.addr4 = true) : s.quadReadFrame a n = .qfr4 a n := by simp [State.quadReadFrame, h]
theorem State.sectorFrame_addr3 (h : s.stat.addr4 = false) : s.sectorFrame a = .se3 (low24 a) := by simp [State.sectorFrame, h]
theorem State.sectorFrame_addr4 (h : s.stat.addr4 = true) : s.sectorFrame a = .se4 a := by simp [State.sectorFrame, h]

end

/-- Settles O19: the multiplexer makes the frame due at the statement, and its words are those of its layout. -/
theorem addressedFramesIssued : Obligations.AddressedFramesIssued := by
  intro s hc issues cur low dummy
  have issued {p : Pos} {i : Instr} {d : CmdDesc} {w0 w1 w2 : Word} (hs : s.seq = .running p) (hi : s.frameAt p = some i)
      (hd : frameDesc s.cfg i = some d) (hr : cmdRegs d = ⟨w0, w1, w2⟩) : issues i w0 w1 w2 :=
    ⟨d, words_of_cmdRegs hr, exec_at_statement hs hc hi hd hr⟩
  refine ⟨fun hs h => ?_, fun hs h => ?_, fun hs h => ?_, fun hs h => ?_, fun hs h => ?_, fun hs h => ?_⟩
  · exact issued hs (congrArg some (State.programFrame_addr3 _ _ h)) rfl (layoutWord_program24 ▸ cmdRegs_programDesc ..)
  · exact issued hs (congrArg some (State.programFrame_addr4 _ _ h)) rfl (layoutWord_program32 ▸ cmdRegs_programDesc ..)
  · exact issued hs (congrArg some (State.quadReadFrame_addr3 _ _ h)) rfl (layoutWord_quadRead24 ▸ cmdRegs_quadReadDesc ..)
  · exact issued hs (congrArg some (State.quadReadFrame_addr4 _ _ h)) rfl (layoutWord_quadRead32 ▸ cmdRegs_quadReadDesc ..)
  · exact issued hs (congrArg some (State.sectorFrame_addr3 _ h)) rfl (layoutWord_sector24 ▸ cmdRegs_sectorDesc ..)
  · exact issued hs (congrArg some (State.sectorFrame_addr4 _ h)) rfl (layoutWord_sector32 ▸ cmdRegs_sectorDesc ..)

/-! ### A poll at its statement (spec/42 R192, R195) -/

/-- The sequencer's turn at a poll: the three registers take the call's words and class, the call is outstanding and in the trace, nothing else changes. -/
theorem step_poll {s : State} {p : Pos} {ts : List Turn} {mask : Byte} {m : PollMode} {c : PollClass} {flags : Word}
    (ht : s.turns = .sequencer :: ts) (hs : s.seq = .running p) (hc : s.call = none) (hi : s.frameAt p = none)
    (hp : State.perform { s with turns := ts } p = State.callAutoPoll (pollOf s.cfg mask m) c { s with turns := ts })
    (hf : pollFlags 0 true m = flags) :
    step s = .next
      { s with
        turns := ts
        cmdDesc := ⟨0x00000800 ||| s.cfg.cmdRdsr.setWidth 32, 0, 1⟩
        pollDesc := ⟨s.cfg.pollInterval.setWidth 32 <<< 16 ||| flags ||| s.cfg.cmdRdsr.setWidth 32, mask.setWidth 32⟩
        pollClass := c.bits
        call := some (.autoPoll (statusDesc s.cfg.cmdRdsr) (pollOf s.cfg mask m) c)
        trace := s.trace ++ [.call (.autoPoll (statusDesc s.cfg.cmdRdsr) (pollOf s.cfg mask m) c)] } := by
  rw [step_sequencer ht hs hc hi, hp, ← cmdRegs_statusDesc, ← hf, ← pollRegs_pollOf]
  rfl

/-- Settles O60: each poll's statement is the gate's poll or a ready wait's, with its class. -/
theorem pollCallsWriteTheirRegisters : Obligations.PollCallsWriteTheirRegisters := by
  intro s p ts ht hs hc t ready
  have wait {c : PollClass} (hi : s.frameAt p = none)
      (hp : State.perform { s with turns := ts } p = State.callReadyPoll c { s with turns := ts }) : step s = .next (ready c.bits c) :=
    step_poll ht hs hc hi hp pollFlags_clear
  refine ⟨?_, ?_, ?_, ?_, ?_, ?_⟩
  · rintro ⟨u, rfl⟩; exact step_poll ht hs hc rfl rfl pollFlags_set
  · rintro (rfl | rfl) <;> exact wait rfl rfl
  · rintro (rfl | rfl) <;> exact wait rfl rfl
  · rintro rfl; exact wait rfl rfl
  · rintro rfl; exact wait rfl rfl
  · rintro rfl; exact wait rfl rfl

end Sys2Proof.Machine

/-! ## The registers, the trace and block reset -/

namespace Sys2Proof.Machine

/-! ### What a register read gives (spec/10 R31 to R36) -/

/-- The number of a concatenation, by arithmetic. -/
theorem toNat_append_eq {m n : Nat} (x : BitVec m) (y : BitVec n) : (x ++ y).toNat = x.toNat * 2 ^ n + y.toNat := by
  rw [BitVec.toNat_append, ← Nat.shiftLeft_add_eq_or_of_lt y.isLt, Nat.shiftLeft_eq]

/-- STAT's layout (spec/10 R34), each field at its weight. -/
theorem Stat.word_eq (t : Stat) :
    t.word = BitVec.ofNat 32 (t.busy.toNat + 2 * t.done.toNat + 16 * t.result.bits.toNat + 256 * t.addr4.toNat
      + 512 * t.mmap.toNat + 65536 * t.lastSr.toNat) := by
  have hresult := t.result.bits.isLt
  have hlast := t.lastSr.isLt
  have hbusy := t.busy.toNat_lt
  have hdone := t.done.toNat_lt
  have haddr4 := t.addr4.toNat_lt
  have hmmap := t.mmap.toNat_lt
  refine BitVec.eq_of_toNat_eq ?_
  unfold Stat.word
  simp only [toNat_append_eq, BitVec.toNat_ofBool, BitVec.toNat_ofNat]
  omega

/-- The sector count is FLASH_SIZE / SECTOR_SIZE, the division being exact (spec/00 R6, R7). -/
theorem Params.sectorCount_eq {p : Params} (h : 0 < p.sectorSize) : p.sectorCount = p.flashSize / p.sectorSize :=
  (Nat.mul_div_cancel_left _ h).symm

/-- An aligned 32-bit read of a register: its value is in the trace, the access and the turn are used up, nothing else changes. -/
theorem step_regRead {s : State} {r : Reg} {v : Word} {off : Nat} {rest : List HostOp} {ts : List Turn} (ht : s.turns = .host :: ts)
    (hh : s.host = .regRead off 4 :: rest) (hf : ∀ r, s.seq ≠ .faulted r) (hr : accessed off 4 = some r) (hv : s.regValue r = v) :
    step s = .next { s with turns := ts, host := rest, trace := s.trace ++ [.regRead off v] } := by
  have hv' : State.regValue { s with turns := ts, host := rest } r = v := by rw [← hv]; cases r <;> rfl
  rw [step_host ht hf]
  simp only [State.hostTurn, hh, State.hostRegRead, hr, hv']
  rfl

/-- Settles O24: each of the ten offsets is its register's, and the register's value is the one stated. -/
theorem registerReadValues : Obligations.RegisterReadValues := by
  intro s off rest ts ht hh hf t
  have read {r : Reg} {v : Word} (hr : accessed off 4 = some r) (hv : s.regValue r = v) : step s = .next (t v) :=
    step_regRead ht hh hf hr hv
  refine ⟨?_, ?_, ?_, ?_, ?_, ?_, ?_, ?_, ?_, ?_⟩
  · rintro rfl; exact read (r := .req) rfl rfl
  · rintro rfl; exact read (r := .arg0) rfl rfl
  · rintro rfl; exact read (r := .arg1) rfl rfl
  · rintro rfl; exact read (r := .arg2) rfl rfl
  · rintro rfl; exact read (r := .stat) rfl s.stat.word_eq
  · rintro rfl; exact read (r := .geoFlashSize) rfl rfl
  · rintro rfl; exact read (r := .geoSectorSize) rfl rfl
  · rintro rfl hs; exact read (r := .geoSectorCount) rfl (congrArg (BitVec.ofNat 32) (Params.sectorCount_eq hs))
  · rintro rfl; exact read (r := .geoPageSize) rfl rfl
  · rintro rfl; exact read (r := .geoPageCount) rfl rfl

/-! ### The trace only grows (spec/00 R17) -/

/-- Every move of an agent keeps the events of the trace and adds its own at the end. -/
theorem Move.trace_grows {s t : State} (h : Move s t) : ∃ es, t.trace = s.trace ++ es := by
  cases h with
  | issue p i d _ _ _ _ => exact ⟨[.call (.issueCmd d)], rfl⟩
  | perform p _ _ _ =>
    obtain ⟨-, -, -, -, -, -, htrace, -⟩ := s.perform_facts p
    exact htrace
  | answer p c a rest _ _ _ _ => exact ⟨[.answer a], rfl⟩
  | observe e host _ => exact ⟨[e], rfl⟩
  | stay | fault _ _ | accept _ _ _ _ _ _ | illegal _ _ | arg _ _ | store _ _ _ _ => exact ⟨[], (List.append_nil _).symm⟩

/-- Settles O57: a step is block reset, which empties the trace, or a move of an agent, which adds to it. -/
theorem traceOnlyGrows : Obligations.TraceOnlyGrows := by
  intro s t h
  obtain ⟨ts, ⟨hr, rfl⟩ | ⟨hr, -, hm⟩⟩ := step_move h
  · exact ⟨fun hn => absurd hr hn, fun _ => rfl⟩
  · exact ⟨fun _ => hm.trace_grows, fun hb => absurd hb hr⟩

/-! ### Block reset (spec/10 R60, spec/70 R340) -/

/-- The turn of block reset. -/
theorem step_blockReset {s : State} {ts : List Turn} (ht : s.turns = .blockReset :: ts) :
    step s = .next (State.blockReset { s with turns := ts }) := by
  simp only [step, State.takeTurn, ht, State.runTurn]

/-- The state right after reset is what a block reset of it gives. -/
theorem State.reset_blockReset : State.reset.blockReset = State.reset := rfl

/-- STAT reads 0 at reset (spec/10 R60). -/
theorem State.reset_stat_word : State.reset.stat.word = 0 := by decide

/-- At reset SECTOR_SIZE and PAGE_SIZE are the spec's (spec/93 I1). -/
theorem Config.params_sizes : Config.params.sectorSize = 65536 ∧ Config.params.pageSize = 256 := by
  unfold Config.params
  exact ⟨rfl, rfl⟩

/-- Settles O23: block reset gives every register its reset value in every state, and the state right after reset is such a state. -/
theorem resetValues : Obligations.ResetValues := by
  unfold Obligations.ResetValues
  intro atReset
  have block (s : State) : atReset s.blockReset :=
    ⟨State.reset_stat_word, rfl, rfl, rfl, rfl, rfl, rfl, rfl, rfl, rfl, rfl, rfl, rfl, rfl, rfl,
      fun h => congrArg (BitVec.ofNat 32) (Params.sectorCount_eq h), rfl, rfl⟩
  obtain ⟨hsector, hpage⟩ := Config.params_sizes
  exact ⟨State.reset_blockReset ▸ block State.reset, Config.params_valid, congrArg (BitVec.ofNat 32) hsector,
    congrArg (BitVec.ofNat 32) hpage, fun s ts ht => ⟨_, step_blockReset ht, block _, rfl, rfl⟩⟩

end Sys2Proof.Machine

/-! ## The control invariant and the outstanding call (spec/10 R34, R35, R44, R47, R48) -/

namespace Sys2Proof.Machine

/-! ### What the control invariant asks -/

/-- In every state: BUSY and DONE are never both 1, no call is outstanding in MM mode, and the transport's configuration agrees with the mode. -/
theorem State.controlInv_flags {s : State} (hi : s.controlInv = true) :
    (s.stat.busy && s.stat.done) = false ∧ (s.stat.mmap = true → s.call = none) ∧
      s.window = if s.stat.mmap then some (s.desc .qfr 0 0) else none := by
  simp only [State.controlInv, State.busyNotDone, State.quietInMm, State.windowAgrees, Bool.and_eq_true] at hi
  obtain ⟨⟨⟨⟨⟨-, hdone⟩, -⟩, -⟩, hquiet⟩, hwindow⟩ := hi
  refine ⟨by rwa [Bool.not_eq_true'] at hdone, fun hm => ?_, by simpa using hwindow⟩
  simp only [hm, Bool.not_true, Bool.false_or, Bool.and_eq_true] at hquiet
  simpa using hquiet.1

/-- The control invariant of a running request, from its parts: the converse of `State.controlInv_running`. -/
theorem State.controlInv_of_running {s : State} {p : Pos} (hs : s.seq = .running p) (hbusy : s.stat.busy = true)
    (hdone : s.stat.done = false) (hop : s.latch.op = requestOp p.request) (hcode : ∀ i c, p = .finish i c → mayReturn i c = true)
    (hquiet : s.stat.mmap = true → p.quiet = true ∧ s.call = none)
    (hwindow : s.window = if s.stat.mmap then some (s.desc .qfr 0 0) else none) : s.controlInv = true := by
  have hc : s.codeAgrees = true := by
    unfold State.codeAgrees
    rw [hs]
    cases p with
    | finish i c => exact hcode i c rfl
    | _ => rfl
  have hq : s.quietInMm = true := by
    unfold State.quietInMm
    rw [hs]
    cases hm : s.stat.mmap with
    | false => rfl
    | true => simp [hquiet hm]
  simp [State.controlInv, State.busyAgrees, State.busyNotDone, State.opAgrees, State.windowAgrees, hs, hbusy, hdone, hop, hc, hq, hwindow]

/-- The control invariant where no request runs, from its parts. -/
theorem State.controlInv_of_not_running {s : State} (hs : ∀ p, s.seq ≠ .running p) (hidle : s.seq = .idle → s.stat.busy = false)
    (hdone : (s.stat.busy && s.stat.done) = false) (hquiet : s.stat.mmap = true → s.call = none)
    (hwindow : s.window = if s.stat.mmap then some (s.desc .qfr 0 0) else none) : s.controlInv = true := by
  have hq : (!s.stat.mmap || s.call.isNone) = true := by
    cases hm : s.stat.mmap with
    | false => rfl
    | true => simp [hquiet hm]
  cases h : s.seq with
  | running p => exact absurd h (hs p)
  | idle | faulted _ =>
    simp [State.controlInv, State.busyAgrees, State.busyNotDone, State.opAgrees, State.codeAgrees, State.quietInMm, State.windowAgrees,
      h, hdone, hwindow, hq, hidle]

/-- In MM mode a running request is at the `finish` that ends it (spec/43 R231). -/
theorem State.controlInv_mapped {s : State} {p : Pos} (hi : s.controlInv = true) (hs : s.seq = .running p) (hm : s.stat.mmap = true) :
    ∃ i c, p = .finish i c := by
  obtain ⟨-, -, -, -, hquiet, -⟩ := State.controlInv_running hi hs
  exact Pos.quiet_finish (hquiet hm).1

/-- A request at a position other than `finish` runs outside MM mode, the transport not configured. -/
theorem State.controlInv_unmapped {s : State} {p : Pos} (hi : s.controlInv = true) (hs : s.seq = .running p)
    (hp : ∀ i c, p ≠ .finish i c) : s.stat.mmap = false ∧ s.window = none := by
  obtain ⟨-, -, hwindow⟩ := State.controlInv_flags hi
  have hm : s.stat.mmap = false := by
    cases hm : s.stat.mmap with
    | false => rfl
    | true =>
      obtain ⟨i, c, h⟩ := State.controlInv_mapped hi hs hm
      exact absurd h (hp i c)
  exact ⟨hm, by rw [hwindow, hm]; rfl⟩

/-- The encoder function reads ADDR4 and the parameters, nothing else (spec/40 R151). -/
theorem State.desc_congr {s t : State} (hcfg : t.cfg = s.cfg) (haddr4 : t.stat.addr4 = s.stat.addr4) : t.desc = s.desc := by
  funext k a n
  unfold State.desc
  rw [hcfg, haddr4]

/-- A request's program starts at a position of its own. -/
theorem startOf_request {i : Instr} (hport : i.port = .req) : (startOf i).request = i := by
  cases i with
  | init | read | write | erase | eraseChip | getStatus | getGeometry | enterMm | enter4b => rfl
  | _ => cases hport

/-- Only GET_GEOMETRY's program is all `finish`, and it is `finish(OK)` (spec/46 R295). -/
theorem startOf_finish {i j : Instr} {c : ResultCode} (h : startOf i = .finish j c) : j = .getGeometry ∧ c = .ok := by
  cases i with
  | init | read | write | erase | eraseChip | getStatus | enterMm | enter4b => cases h
  | _ => cases h; exact ⟨rfl, rfl⟩

/-! ### Every move keeps it -/

/-- A frame is issued outside MM mode: no position that issues one is a `finish`. -/
theorem State.controlInv_callIssueCmd {s : State} {p : Pos} {i : Instr} (d : CmdDesc) (hi : s.controlInv = true) (hs : s.seq = .running p)
    (hf : s.frameAt p = some i) : (s.callIssueCmd d).controlInv = true := by
  have hp : ∀ j c, p ≠ .finish j c := fun j c h => by subst h; cases hf
  obtain ⟨hbusy, hdone, hop, hcode, -, -⟩ := State.controlInv_running hi hs
  obtain ⟨hm, hw⟩ := State.controlInv_unmapped hi hs hp
  refine State.controlInv_of_running (p := p) hs hbusy hdone hop hcode (fun h => ?_) ?_
  · cases hm.symm.trans h
  · simp [hm, hw]

/-- STAT.MMAP <- 1 comes with the template of the mode, and `finish(OK)` is next (spec/43 R226). -/
theorem State.controlInv_mapSet {s : State} (hi : s.controlInv = true) (hs : s.seq = .running .mapSet) (hc : s.call = none) :
    (s.perform .mapSet).controlInv = true := by
  obtain ⟨hbusy, hdone, hop, -, -, -⟩ := State.controlInv_running hi hs
  exact State.controlInv_of_running (p := .finish .enterMm .ok) rfl hbusy hdone hop (fun i c h => by cases h; rfl)
    (fun _ => ⟨rfl, hc⟩) rfl

/-- A statement that is no IssueCmd. -/
theorem State.controlInv_perform {s : State} {p : Pos} (hi : s.controlInv = true) (hs : s.seq = .running p) (hc : s.call = none)
    (hf : s.frameAt p = none) : (s.perform p).controlInv = true := by
  by_cases hset : p = .mapSet
  · subst hset
    exact State.controlInv_mapSet hi hs hc
  obtain ⟨hbusy, hdone, hop, -, -, -⟩ := State.controlInv_running hi hs
  obtain ⟨-, -, hlatch, -⟩ := s.perform_facts p
  have goes {q : Pos} (hp : ∀ i c, p ≠ .finish i c) (hq : (s.perform p).seq = .running q) (hreq : q.request = p.request)
      (hcode : ∀ i c, q = .finish i c → mayReturn i c = true) : (s.perform p).controlInv = true := by
    obtain ⟨hb, hd, -, hmode⟩ := s.perform_flags hp
    obtain ⟨hm, hw⟩ := State.controlInv_unmapped hi hs hp
    obtain ⟨hm', hw'⟩ := hmode hset
    refine State.controlInv_of_running hq (hb.trans hbusy) (hd.trans hdone) (by rw [hlatch, hop, hreq]) hcode (fun h => ?_) ?_
    · rw [hm', hm] at h
      cases h
    · rw [hw', hw, hm', hm]
      rfl
  rcases s.perform_goes hf with ⟨hq, -, hp⟩ | ⟨-, ⟨q, hq, hreq, hcode⟩, hp⟩ | ⟨i, c, rfl, ht⟩
  · exact goes hp (hq.trans hs) rfl fun i c h => absurd h (hp i c)
  · exact goes hp hq hreq hcode
  · obtain ⟨-, hquiet, hwindow⟩ := State.controlInv_flags hi
    rw [ht]
    exact State.controlInv_of_not_running (fun _ h => by cases h) (fun _ => rfl) rfl hquiet hwindow

/-- An answer ends the call; calls are outstanding outside MM mode only. -/
theorem State.controlInv_answered {s : State} {p : Pos} {c : Call} (a : Answer) (hi : s.controlInv = true) (hs : s.seq = .running p)
    (hc : s.call = some c) : (s.answered p a).controlInv = true := by
  obtain ⟨hbusy, hdone, hop, hcode, hquiet, hwindow⟩ := State.controlInv_running hi hs
  have hm : (s.answered p a).stat.mmap = true → (s.after a p).quiet = true ∧ (s.answered p a).call = none := fun h => by
    cases (hquiet h).2.symm.trans hc
  rcases s.after_goes a p with h | ⟨hreq, hfollow⟩
  · exact State.controlInv_of_running rfl hbusy hdone (by rw [h]; exact hop) (by rw [h]; exact hcode) hm hwindow
  · exact State.controlInv_of_running rfl hbusy hdone (by rw [hreq]; exact hop) hfollow hm hwindow

/-- Acceptance starts the request's program, in MM mode GET_GEOMETRY's only. -/
theorem State.controlInv_accept {s : State} {i : Instr} (hi : s.controlInv = true) (hport : i.port = .req)
    (hm : s.stat.mmap = false ∨ i = .getGeometry) : (s.accept i (startOf i)).controlInv = true := by
  obtain ⟨-, hquiet, hwindow⟩ := State.controlInv_flags hi
  refine State.controlInv_of_running rfl rfl rfl (congrArg requestOp (startOf_request hport).symm) (fun j c h => ?_) (fun h => ?_) hwindow
  · obtain ⟨rfl, rfl⟩ := startOf_finish h
    rfl
  · rcases hm with hm | rfl
    · cases hm.symm.trans h
    · exact ⟨rfl, hquiet h⟩

/-- Block reset gives it in every state. -/
theorem State.controlInv_blockReset (s : State) : s.blockReset.controlInv = true := rfl

/-- Every move of an agent keeps the control invariant. -/
theorem Move.keeps_controlInv {s t : State} (hi : s.controlInv = true) (hf : ∀ r, s.seq ≠ .faulted r) (h : Move s t) :
    t.controlInv = true := by
  obtain ⟨hdone, hquiet, hwindow⟩ := State.controlInv_flags hi
  cases h with
  | stay => exact hi
  | issue p i d hs _ hfr _ => exact State.controlInv_callIssueCmd d hi hs hfr
  | perform p hs hc hfr => exact State.controlInv_perform hi hs hc hfr
  | answer p c a rest hs hc _ _ => exact State.controlInv_answered (s := { s with transport := rest }) a hi hs hc
  | fault r host =>
    exact State.controlInv_of_not_running (fun _ h => by cases h) (fun h => by cases h) hdone hquiet hwindow
  | accept i host hport _ hm _ => exact State.controlInv_accept (s := { s with host := host }) hi hport hm
  | illegal host hb =>
    have hidle := State.controlInv_idle hi hf hb
    exact State.controlInv_of_not_running (fun _ h => by cases hidle.symm.trans h) (fun _ => hb) (by simp [State.illegalWord, hb]) hquiet
      hwindow
  | arg _ _ | observe _ _ _ | store _ _ _ _ => exact hi

/-- Settles O45: a step is block reset, which gives the invariant, or a move of an agent, and each move keeps it. -/
theorem controlInvKept : Obligations.ControlInvKept := by
  intro s t hi h
  obtain ⟨ts, ⟨-, rfl⟩ | ⟨-, hf, hm⟩⟩ := step_move h
  · exact State.controlInv_blockReset _
  · exact Move.keeps_controlInv (s := { s with turns := ts }) hi hf hm

/-! ### What the agreement of the call asks -/

/-- While the sequencer is idle no call is outstanding. -/
theorem State.callAgrees_idle {s : State} (ha : s.callAgrees = true) (hs : s.seq = .idle) : s.call = none := by
  cases hc : s.call with
  | none => rfl
  | some c => simp [State.callAgrees, hs, hc] at ha

/-- With no call outstanding nothing is asked. -/
theorem State.callAgrees_of_no_call {s : State} (hc : s.call = none) : s.callAgrees = true := by
  unfold State.callAgrees
  rw [hc]
  cases s.seq <;> rfl

/-- An outstanding call of the running request, from the call of its position: the converse of `State.callAgrees_running`. -/
theorem State.callAgrees_of_running {s : State} {p : Pos} (hs : s.seq = .running p) (h : s.call = s.callAt p) : s.callAgrees = true := by
  cases hc : s.call with
  | none => exact State.callAgrees_of_no_call hc
  | some c => simp [State.callAgrees, hs, hc, ← h]

/-- A model fault leaves the outstanding call without a position to agree with. -/
theorem State.callAgrees_of_faulted {s : State} {r : Fault} (hs : s.seq = .faulted r) : s.callAgrees = true := by
  unfold State.callAgrees
  rw [hs]
  cases s.call <;> rfl

/-- The operands of a frame are read from the latched request, the cursors and ADDR4, nothing else. -/
theorem State.frameAt_congr {s t : State} (hlatch : t.latch = s.latch) (hcursor : t.cursor = s.cursor)
    (haddr4 : t.stat.addr4 = s.stat.addr4) : t.frameAt = s.frameAt := by
  funext p
  cases p <;>
    simp only [State.frameAt, State.quadReadFrame, State.programFrame, State.sectorFrame, hlatch, hcursor, haddr4]

/-- The call of a position reads the parameters, the latched request, the cursors and ADDR4, nothing else. -/
theorem State.callAt_congr {s t : State} (hcfg : t.cfg = s.cfg) (hlatch : t.latch = s.latch) (hcursor : t.cursor = s.cursor)
    (haddr4 : t.stat.addr4 = s.stat.addr4) : t.callAt = s.callAt := by
  have hframe := State.frameAt_congr hlatch hcursor haddr4
  have hdesc := State.desc_congr hcfg haddr4
  funext p
  cases p <;> simp only [State.callAt, hframe, hdesc, hcfg, hlatch]

/-- At the statement of a frame the call is the IssueCmd of its descriptor. -/
theorem State.callAt_frame {s : State} {p : Pos} {i : Instr} (h : s.frameAt p = some i) :
    s.callAt p = (frameDesc s.cfg i).map .issueCmd := by
  cases p with
  | gateWren _ | initRsten | initRstmem | initEn4b | enter4bEn4b | readCmd | writeCmd | eraseCmd | chipCmd | statusCmd =>
    simp only [State.callAt, h]
  | _ => cases h

/-- A statement that places a call leaves what its arguments are read from. -/
theorem State.perform_call_keeps {s : State} {p : Pos} {c : Call} (h : s.callAt p = some c) :
    (s.perform p).cfg = s.cfg ∧ (s.perform p).latch = s.latch ∧ (s.perform p).cursor = s.cursor ∧
      (s.perform p).stat.addr4 = s.stat.addr4 := by
  cases p with
  | initClear | initSet | enter4bSet | mapSet | readStore _ _ | readAny _ | writeCur | writeEnda | writeChunk | writeOff | writeRead _
  | writeNextCur | writeNextOff | writeNextChunk | eraseCur | eraseEnda | eraseNext | statusSave _ | finish _ _ => cases h
  | _ => exact ⟨rfl, rfl, rfl, rfl⟩

/-! ### Every move keeps it -/

/-- A frame that is due is the call of its position. -/
theorem State.callAgrees_callIssueCmd {s : State} {p : Pos} {i : Instr} {d : CmdDesc} (hs : s.seq = .running p)
    (hf : s.frameAt p = some i) (hd : frameDesc s.cfg i = some d) : (s.callIssueCmd d).callAgrees = true := by
  refine State.callAgrees_of_running (p := p) hs ?_
  rw [State.callAt_congr (s := s) (t := s.callIssueCmd d) rfl rfl rfl rfl, State.callAt_frame hf, hd]
  rfl

/-- A statement that is no IssueCmd places the call of its position, or leaves none. -/
theorem State.callAgrees_perform {s : State} {p : Pos} (hs : s.seq = .running p) (hc : s.call = none) (hf : s.frameAt p = none) :
    (s.perform p).callAgrees = true := by
  rcases s.perform_goes hf with ⟨hq, hcall, -⟩ | ⟨hcall, -, -⟩ | ⟨i, c, rfl, ht⟩
  · cases hat : s.callAt p with
    | none => exact State.callAgrees_of_no_call (hcall.trans hat)
    | some c =>
      obtain ⟨hcfg, hlatch, hcursor, haddr4⟩ := State.perform_call_keeps hat
      exact State.callAgrees_of_running (hq.trans hs) (by rw [hcall, State.callAt_congr hcfg hlatch hcursor haddr4])
  · exact State.callAgrees_of_no_call (hcall.trans hc)
  · rw [ht]
    exact State.callAgrees_of_no_call hc

/-- Every move of an agent keeps the agreement of the outstanding call with its position. -/
theorem Move.keeps_callAgrees {s t : State} (hi : s.controlInv = true) (ha : s.callAgrees = true) (hf : ∀ r, s.seq ≠ .faulted r)
    (h : Move s t) : t.callAgrees = true := by
  cases h with
  | stay => exact ha
  | issue p i d hs _ hfr hd => exact State.callAgrees_callIssueCmd hs hfr hd
  | perform p hs hc hfr => exact State.callAgrees_perform hs hc hfr
  | answer p c a rest _ _ _ _ => exact State.callAgrees_of_no_call rfl
  | fault r host => exact State.callAgrees_of_faulted rfl
  | accept i host _ hb _ _ => 
    have hc : s.call = none := State.callAgrees_idle ha (State.controlInv_idle hi hf hb)
    exact State.callAgrees_of_no_call hc
  | illegal _ _ | arg _ _ | observe _ _ _ | store _ _ _ _ => exact ha

/-- Settles O47: a step is block reset, which forgets the call, or a move of an agent, and each move keeps the agreement. -/
theorem callAgreementKept : Obligations.CallAgreementKept := by
  intro s t hi ha h
  obtain ⟨ts, ⟨-, rfl⟩ | ⟨-, hf, hm⟩⟩ := step_move h
  · exact State.callAgrees_of_no_call rfl
  · exact Move.keeps_callAgrees (s := { s with turns := ts }) hi ha hf hm

/-! ### What a step does while a call is outstanding (spec/10 R48) -/

/-- A turn given to the sequencer. -/
theorem step_sequencerTurn {s : State} {ts : List Turn} (ht : s.turns = .sequencer :: ts) :
    step s = State.sequencerTurn { s with turns := ts } := by
  simp only [step, State.takeTurn, ht, State.runTurn]

/-- The sequencer makes no step while a call is outstanding. -/
theorem State.sequencerTurn_waits {s t : State} {c : Call} (hc : s.call = some c) (h : s.sequencerTurn = .next t) : t = s := by
  unfold State.sequencerTurn at h
  rw [hc] at h
  cases hs : s.seq with
  | idle | running _ => simp only [hs] at h; cases h; rfl
  | faulted r => simp only [hs] at h; cases h

/-- A move while a call is outstanding ends it, or leaves it with its registers and position, or is a model fault of the host. -/
theorem Move.keeps_call {s t : State} {c : Call} (hi : s.controlInv = true) (ha : s.callAgrees = true) (hf : ∀ r, s.seq ≠ .faulted r)
    (hc : s.call = some c) (h : Move s t) :
    t.call = none ∨
      t.call = some c ∧ t.cmdDesc = s.cmdDesc ∧ t.pollDesc = s.pollDesc ∧ t.pollClass = s.pollClass ∧ t.seq = s.seq ∨
      ∃ r, t.seq = .faulted r ∧ t.call = some c ∧ t.cmdDesc = s.cmdDesc := by
  cases h with
  | issue p i d _ hn _ _ => cases hn.symm.trans hc
  | perform p _ hn _ => cases hn.symm.trans hc
  | answer p c a rest _ _ _ _ => exact .inl rfl
  | fault r host => exact .inr (.inr ⟨r, rfl, hc, rfl⟩)
  | accept i host _ hb _ _ => cases (State.callAgrees_idle ha (State.controlInv_idle hi hf hb)).symm.trans hc
  | stay | illegal _ _ | arg _ _ | observe _ _ _ | store _ _ _ _ => exact .inr (.inl ⟨hc, rfl, rfl, rfl, rfl⟩)

/-- Settles O53: the sequencer waits for the answer, and no other agent's move places a call. -/
theorem outstandingCallIsStable : Obligations.OutstandingCallIsStable := by
  intro s t c hi ha hc h
  refine ⟨fun ts hts => ?_, ?_⟩
  · rw [step_sequencerTurn hts] at h
    exact State.sequencerTurn_waits (s := { s with turns := ts }) hc h
  · obtain ⟨ts, ⟨-, rfl⟩ | ⟨-, hf, hm⟩⟩ := step_move h
    · exact .inl rfl
    · exact Move.keeps_call (s := { s with turns := ts }) hi ha hf hc hm

end Sys2Proof.Machine

/-! ## The modes (spec/10 R36, R37, spec/43 R231) and what the host can reach (spec/60 R322) -/

namespace Sys2Proof.Machine

/-! ### Who changes a mode -/

/-- Every move keeps the parameters, and changes a mode or LAST_SR only in the program of the request the spec names. -/
theorem Move.mode_changes {s t : State} (h : Move s t) :
    t.cfg = s.cfg ∧
      (t.stat.addr4 ≠ s.stat.addr4 → ∃ p, s.seq = .running p ∧ (p.request = .init ∨ p.request = .enter4b)) ∧
      (t.stat.mmap ≠ s.stat.mmap → ∃ p, s.seq = .running p ∧ p.request = .enterMm ∧ t.stat.mmap = true) ∧
      (t.stat.lastSr ≠ s.stat.lastSr → ∃ p, s.seq = .running p ∧ p.request = .getStatus) := by
  cases h with
  | perform p hs _ _ =>
    obtain ⟨hcfg, -, -, -, -, -, -, haddr4, hmmap, hlast⟩ := s.perform_facts p
    exact ⟨hcfg, fun h => ⟨p, hs, haddr4 h⟩, fun h => ⟨p, hs, hmmap h⟩, fun h => ⟨p, hs, hlast h⟩⟩
  | _ => exact ⟨rfl, fun h => absurd rfl h, fun h => absurd rfl h, fun h => absurd rfl h⟩

/-- Settles O55: a step is block reset, which keeps the parameters, or a move of an agent. -/
theorem modeChangesOnlyByModeRequests : Obligations.ModeChangesOnlyByModeRequests := by
  intro s t h
  obtain ⟨ts, ⟨hr, rfl⟩ | ⟨-, -, hm⟩⟩ := step_move h
  · exact ⟨State.blockReset_cfg _, fun hn => absurd hr hn⟩
  · obtain ⟨hcfg, hmodes⟩ := hm.mode_changes
    exact ⟨hcfg, fun _ => hmodes⟩

/-- In MM mode every move keeps the modes, leaves no call and passes nothing to the transport: the only statement left to run is `finish`. -/
theorem Move.quiet_in_mm {s t : State} (hi : s.controlInv = true) (hm : s.stat.mmap = true) (h : Move s t) :
    t.stat.mmap = true ∧ t.stat.addr4 = s.stat.addr4 ∧ t.call = none ∧ busEvents t.trace = busEvents s.trace := by
  obtain ⟨-, hquiet, -⟩ := State.controlInv_flags hi
  have hc := hquiet hm
  cases h with
  | issue p i d hs _ hfr _ =>
    obtain ⟨j, c, rfl⟩ := State.controlInv_mapped hi hs hm
    cases hfr
  | perform p hs _ _ =>
    obtain ⟨j, c, rfl⟩ := State.controlInv_mapped hi hs hm
    exact ⟨hm, rfl, hc, rfl⟩
  | answer p c a rest _ hsome _ _ => cases hc.symm.trans hsome
  | observe e host he => exact ⟨hm, rfl, hc, by rw [busEvents_append, busEvents_ofHost he, List.append_nil]⟩
  | stay | fault _ _ | accept _ _ _ _ _ _ | illegal _ _ | arg _ _ | store _ _ _ _ => exact ⟨hm, rfl, hc, rfl⟩

/-- Settles O56: a step other than block reset is a move of an agent, and every move is quiet in MM mode. -/
theorem memoryMappedModeIsQuiet : Obligations.MemoryMappedModeIsQuiet := by
  intro s t hi hm h hn
  obtain ⟨ts, ⟨hr, -⟩ | ⟨-, -, hmove⟩⟩ := step_move h
  · exact absurd hr hn
  · exact Move.quiet_in_mm (s := { s with turns := ts }) hi hm hmove

/-! ### The host while a request runs -/

/-- `t` is `s` after an access of the host that leaves the running request alone: SEQ is as it was or a model fault, and the call, the
latched request, the cursors, STAT, CMD_DESC and what passed on the bus are as they were. -/
structure HostKeeps (s t : State) : Prop where
  seq : t.seq = s.seq ∨ ∃ r, t.seq = .faulted r
  call : t.call = s.call
  latch : t.latch = s.latch
  cursor : t.cursor = s.cursor
  stat : t.stat = s.stat
  cmdDesc : t.cmdDesc = s.cmdDesc
  bus : busEvents t.trace = busEvents s.trace

/-- A read of the host leaves it alone. -/
theorem HostKeeps.log {s : State} {e : Event} (he : e.ofHost = true) : HostKeeps s (s.log e) :=
  ⟨.inl rfl, rfl, rfl, rfl, rfl, rfl, by rw [State.log_trace, busEvents_append, busEvents_ofHost he, List.append_nil]⟩

/-- A model fault leaves it alone but for SEQ (spec/60 R310). -/
theorem HostKeeps.of_raise {s t : State} {r : Fault} (h : s.raise r = .next t) : HostKeeps s t := by
  cases h
  exact ⟨.inr ⟨r, rfl⟩, rfl, rfl, rfl, rfl, rfl, rfl⟩

/-- A register write while BUSY = 1: REQ is a model fault, an ARG register is not the running request's. -/
theorem HostKeeps.of_regWrite {s t : State} {offset width : Nat} {v : Word} (h : s.hostRegWrite offset width v = .next t)
    (hb : s.stat.busy = true) : HostKeeps s t := by
  unfold State.hostRegWrite at h
  split at h
  · rw [State.hostReqWrite, if_pos hb] at h
    exact .of_raise h
  · next r _ _ =>
    cases r with
    | arg0 | arg1 | arg2 => cases h; exact ⟨.inl rfl, rfl, rfl, rfl, rfl, rfl, rfl⟩
    | _ => exact .of_raise h
  · exact .of_raise h

theorem HostKeeps.of_regRead {s t : State} {offset width : Nat} (h : s.hostRegRead offset width = .next t) : HostKeeps s t := by
  unfold State.hostRegRead at h
  split at h
  · cases h; exact .log rfl
  · exact .of_raise h

theorem HostKeeps.of_windowRead {s t : State} {a : Word} {n : Nat} (h : s.hostWindowRead a n = .next t) : HostKeeps s t := by
  unfold State.hostWindowRead at h
  dsimp only at h
  split at h
  · split at h
    · cases h; exact .log rfl
    · exact .of_raise h
  · exact .of_raise h

theorem HostKeeps.of_store {s t : State} {a : Word} {b : Byte} (h : s.hostStore a b = .next t) : HostKeeps s t := by
  unfold State.hostStore at h
  split at h
  · exact .of_raise h
  · split at h
    · exact .of_raise h
    · split at h
      · cases h
      · cases h; exact ⟨.inl rfl, rfl, rfl, rfl, rfl, rfl, rfl⟩

theorem HostKeeps.of_load {s t : State} {a : Word} (h : s.hostLoad a = .next t) : HostKeeps s t := by
  unfold State.hostLoad at h
  split at h
  · exact .of_raise h
  · split at h
    · exact .of_windowRead h
    · split at h
      · cases h
      · cases h; exact .log rfl

/-- While BUSY = 1 every access of the host leaves the running request alone. -/
theorem HostKeeps.of_hostTurn {s t : State} (hb : s.stat.busy = true) (h : s.hostTurn = .next t) : HostKeeps s t := by
  have used {rest : List HostOp} (hk : HostKeeps { s with host := rest } t) : HostKeeps s t :=
    ⟨hk.seq, hk.call, hk.latch, hk.cursor, hk.stat, hk.cmdDesc, hk.bus⟩
  unfold State.hostTurn at h
  split at h
  · cases h; exact ⟨.inl rfl, rfl, rfl, rfl, rfl, rfl, rfl⟩
  · next rest _ =>
    rw [State.hostWait, if_pos hb] at h
    cases h
    exact .log rfl
  · exact used (.of_regWrite h hb)
  · exact used (.of_regRead h)
  · exact used (.of_windowRead h)
  · exact used (.of_raise h)
  · exact used (.of_store h)
  · exact used (.of_load h)

/-- Settles O58: a step of the host is one access, and while BUSY = 1 each leaves the running request alone. -/
theorem hostCannotDisturbARunningRequest : Obligations.HostCannotDisturbARunningRequest := by
  intro s t p ts ht hs hb h
  rw [step_host ht fun r hr => by cases hs.symm.trans hr] at h
  obtain ⟨hseq, hcall, hlatch, hcursor, hstat, hcmdDesc, hbus⟩ := HostKeeps.of_hostTurn (s := { s with turns := ts }) hb h
  rw [← hs]
  exact ⟨hseq, hcall, hlatch, hcursor, hstat, hcmdDesc, hbus⟩

end Sys2Proof.Machine

/-! ## The words of a frame decode to it (spec/30 R126, R127) -/

namespace Sys2Proof

/-- The parts of DW0 that the decoder reads (spec/30 R115). -/
theorem CmdDesc.dw0_parts (d : CmdDesc) :
    instrField d.dw0 = d.instr ∧ dummyField d.dw0 = d.dummy ∧
      layoutField d.dw0 = layoutField (layoutWord d.dwidth d.ddir d.awidth) := by
  rw [CmdDesc.dw0_eq]
  unfold layoutWord instrField dummyField layoutField
  generalize d.dwidth.bits = w, d.ddir.bits = r, d.awidth.bits = a, BitVec.ofBool (d.awidth != .none) = q
  refine ⟨BitVec.eq_of_getLsbD_eq fun j hj => ?_, BitVec.eq_of_getLsbD_eq fun j hj => ?_, BitVec.eq_of_getLsbD_eq fun j hj => ?_⟩
  all_goals
    simp only [BitVec.getLsbD_extractLsb', BitVec.getLsbD_or, BitVec.getLsbD_append, BitVec.getLsbD_shiftLeft, BitVec.getLsbD_setWidth]
    interval_cases j <;> simp

/-- A candidate whose code no other candidate has is the one picked. -/
theorem pickFrame_of_mem {cs : List (Byte × Instr)} {b : Byte} {i : Instr} (hmem : (b, i) ∈ cs) (hone : ∀ c ∈ cs, c.1 = b → c.2 = i) :
    pickFrame b cs = some i := by
  induction cs with
  | nil => cases hmem
  | cons c cs ih =>
    unfold pickFrame
    split
    · next h => rw [hone c (List.mem_cons_self ..) h]
    · next h =>
      rcases List.mem_cons.1 hmem with rfl | hmem
      · exact absurd rfl h
      · exact ih hmem fun d hd => hone d (List.mem_cons_of_mem _ hd)

/-- The words of a frame's descriptor decode to the frame, where its code tells it apart from the other kinds of its layout. -/
theorem decodeFrame_of_layout {p : Params} {i : Instr} {d : CmdDesc} {cs : List (Byte × Instr)} {b : Byte} (hd : frameDesc p i = some d)
    (hb : layoutField (layoutWord d.dwidth d.ddir d.awidth) = b) (hcs : layoutFrames p b d.addr d.dlen = cs) (hmem : (d.instr, i) ∈ cs)
    (hone : ∀ c ∈ cs, c.1 = d.instr → c.2 = i) : decodeFrame p d.dw0 d.addr d.dlen = .ok i := by
  obtain ⟨hinstr, hdummy, hlayout⟩ := d.dw0_parts
  have hreserved := (Laws.Encoding.dw0_fields d).1
  have hcheck : checkFrame p i d.dummy d.addr d.dlen = .ok i := by simp [checkFrame, hd]
  cases cs with
  | nil => cases hmem
  | cons c cs => simp [decodeFrame, hreserved, hlayout, hb, hcs, hinstr, hdummy, pickFrame_of_mem hmem hone, hcheck]

/-- Legal codes of different kinds differ (spec/30 R127). -/
theorem Params.codes_inj {p : Params} (hv : p.valid = true) {k l : Nat} {b : Byte} (hk : (k, b) ∈ p.codes) (hl : (l, b) ∈ p.codes) :
    k = l := by
  have hdistinct : p.codesDistinct = true := by
    simp only [Params.valid, Bool.and_eq_true] at hv
    tauto
  have h := List.all_eq_true.1 (List.all_eq_true.1 hdistinct _ hk) _ hl
  simpa using h

/-- The five kinds without address and data, which share their layout (spec/30 R127), each with its code. -/
def plainFrames (p : Params) : List (Byte × Instr) :=
  [(p.cmdWren, .wren), (p.cmdRsten, .rsten), (p.cmdRstmem, .rstmem), (p.cmdEn4b, .en4b), (p.cmdCe, .ce)]

/-- The number `Params.codes` gives a kind without address and data. -/
def Instr.plainKind : Instr → Nat
  | .wren => 0
  | .rsten => 1
  | .rstmem => 2
  | .en4b => 3
  | _ => 8

/-- Two kinds without address and data that have the same code are the same (spec/30 R127). -/
theorem plainFrames_inj {p : Params} (hv : p.valid = true) {c d : Byte × Instr} (hc : c ∈ plainFrames p) (hd : d ∈ plainFrames p)
    (h : c.1 = d.1) : c.2 = d.2 := by
  have hcode {e : Byte × Instr} (he : e ∈ plainFrames p) : (e.2.plainKind, e.1) ∈ p.codes := by
    simp only [plainFrames, List.mem_cons, List.not_mem_nil, or_false] at he
    rcases he with rfl | rfl | rfl | rfl | rfl <;> simp [Params.codes, Instr.plainKind]
  have hkind : c.2.plainKind = d.2.plainKind := Params.codes_inj hv (hcode hc) (h ▸ hcode hd)
  simp only [plainFrames, List.mem_cons, List.not_mem_nil, or_false] at hc hd
  rcases hc with rfl | rfl | rfl | rfl | rfl <;> rcases hd with rfl | rfl | rfl | rfl | rfl <;> first | rfl | cases hkind

/-! DW0[15:8] of each layout of R126. -/

theorem layoutField_plain : layoutField (layoutWord .x1 .none .none) = 0x00 := by decide
theorem layoutField_status : layoutField (layoutWord .x1 .read .none) = 0x08 := by decide
theorem layoutField_program24 : layoutField (layoutWord .x4 .write .a24) = 0x33 := by decide
theorem layoutField_program32 : layoutField (layoutWord .x4 .write .a32) = 0x35 := by decide
theorem layoutField_quadRead24 : layoutField (layoutWord .x4 .read .a24) = 0x2B := by decide
theorem layoutField_quadRead32 : layoutField (layoutWord .x4 .read .a32) = 0x2D := by decide
theorem layoutField_sector24 : layoutField (layoutWord .x1 .none .a24) = 0x03 := by decide
theorem layoutField_sector32 : layoutField (layoutWord .x1 .none .a32) = 0x05 := by decide

/-- A 24-bit field holds its address (spec/30 R117). -/
theorem low24_zext24 (a : Addr24) : low24 (zext24 a) = a := BitVec.setWidth_setWidth_of_le a (by decide)

/-- With legal parameters the words of a frame's descriptor decode to the frame, for every operand. -/
theorem decode_words {p : Params} {i : Instr} {d : CmdDesc} (hv : p.valid = true) (hd : frameDesc p i = some d) :
    decode p .cmd d.words = .ok i := by
  have plain {code : Byte} {i : Instr} (hd : frameDesc p i = some (plainDesc code)) (hmem : (code, i) ∈ plainFrames p) :
      decode p .cmd (plainDesc code).words = .ok i :=
    decodeFrame_of_layout hd layoutField_plain rfl hmem fun c hc h => plainFrames_inj hv hc hmem h
  have single {i : Instr} {d : CmdDesc} {b : Byte} (hd : frameDesc p i = some d)
      (hb : layoutField (layoutWord d.dwidth d.ddir d.awidth) = b) (hcs : layoutFrames p b d.addr d.dlen = [(d.instr, i)]) :
      decode p .cmd d.words = .ok i :=
    decodeFrame_of_layout hd hb hcs (List.mem_singleton_self _) fun c hc _ => by rw [List.mem_singleton.1 hc]
  cases i with
  | init | read | write | erase | eraseChip | getStatus | getGeometry | enterMm | enter4b => cases hd
  | wren | rsten | rstmem | en4b | ce => cases hd; exact plain rfl (by simp [plainFrames])
  | rdsr => cases hd; exact single rfl layoutField_status rfl
  | pp3 a n =>
    cases hd
    exact single rfl layoutField_program24 (congrArg (fun x => [(p.cmdPp3, Instr.pp3 x n)]) (low24_zext24 a))
  | pp4 a n => cases hd; exact single rfl layoutField_program32 rfl
  | qfr3 a n =>
    cases hd
    exact single rfl layoutField_quadRead24 (congrArg (fun x => [(p.cmdQfr3, Instr.qfr3 x n)]) (low24_zext24 a))
  | qfr4 a n => cases hd; exact single rfl layoutField_quadRead32 rfl
  | se3 a =>
    cases hd
    exact single rfl layoutField_sector24 (congrArg (fun x => [(p.cmdSe3, Instr.se3 x)]) (low24_zext24 a))
  | se4 a => cases hd; exact single rfl layoutField_sector32 rfl

end Sys2Proof

namespace Sys2Proof.Machine

/-! ### A step runs the decoded instruction (spec/60 R322) -/

/-- A host write of a request's word is the request's exec, while another request runs too: both are then the fault ReqWhileBusy. -/
theorem State.hostReqWrite_request {s : State} {w : Word} {i : Instr} (hf : ∀ r, s.seq ≠ .faulted r) (hd : decodeRequest w = .ok i) :
    s.hostReqWrite w = exec i s := by
  unfold State.hostReqWrite
  split
  · next hb => rw [exec_request (decodeRequest_port hd).1, State.present_busy hf hb]
  · rw [hd]

/-- A turn given to the host for a register write: the access and the turn are used up. -/
theorem step_regWrite {s : State} {offset width : Nat} {v : Word} {rest : List HostOp} {ts : List Turn} (ht : s.turns = .host :: ts)
    (hf : ∀ r, s.seq ≠ .faulted r) (hh : s.host = .regWrite offset width v :: rest) :
    step s = State.hostRegWrite offset width v { s with turns := ts, host := rest } := by
  rw [step_host ht hf]
  simp only [State.hostTurn, hh]

/-- At the statement of a frame the sequencer's turn is the frame's exec. -/
theorem State.sequencerTurn_issue {s : State} {i : Instr} (h : s.frameDue = some i) : s.sequencerTurn = exec i s := by
  obtain ⟨p, hs, hc, -⟩ := State.frameDue_eq_some.1 h
  simp only [State.sequencerTurn, hs, hc, h]

/-- Settles O21: the word the host writes is the request's, and the words of the descriptor issued decode to the frame that is due. -/
theorem stepRunsTheDecodedInstruction : Obligations.StepRunsTheDecodedInstruction := by
  refine ⟨fun s w i rest ts ht hh hf hd => ?_, fun s i j d ts ht hdue hd hv hj => ?_⟩
  · rw [step_regWrite ht hf hh]
    exact State.hostReqWrite_request (s := { s with turns := ts, host := rest }) hf hd
  · cases (decode_words hv hd).symm.trans hj
    rw [step_sequencerTurn ht]
    exact State.sequencerTurn_issue (s := { s with turns := ts }) hdue

/-! ### Acceptance, and who issues a frame (spec/60 R320, spec/40 R160 to R171) -/

/-- With no request running, MMAP = 0 and step 4 passed, a request's exec is its acceptance. -/
theorem exec_accepts {s : State} {i : Instr} (hport : i.port = .req) (hf : ∀ r, s.seq ≠ .faulted r) (hb : s.stat.busy = false)
    (hm : s.stat.mmap = false) (hop : s.operandFault i = none) : exec i s = .next (s.accept i (startOf i)) := by
  rw [exec_request hport, hop]
  exact State.present_ok hf hb (.inl hm) none

/-- Settles O11: the six requests have no step 4. -/
theorem plainRequestsAccepted : Obligations.PlainRequestsAccepted := by
  intro s hf hb hm t
  exact ⟨exec_accepts rfl hf hb hm rfl, exec_accepts rfl hf hb hm rfl, exec_accepts rfl hf hb hm rfl, exec_accepts rfl hf hb hm rfl,
    exec_accepts rfl hf hb hm rfl, exec_accepts rfl hf hb hm rfl⟩

/-- Settles O12: the preconditions are what step 4 of R320 checks. -/
theorem operandRequestsAccepted : Obligations.OperandRequestsAccepted := by
  intro s hf hb hm t
  refine ⟨fun hargs => ⟨?_, ?_⟩, fun hargs => ?_⟩
  · exact exec_accepts (i := .read) rfl hf hb hm (State.transferFault_none.2 hargs)
  · exact exec_accepts (i := .write) rfl hf hb hm (State.transferFault_none.2 hargs)
  · exact exec_accepts (i := .erase) rfl hf hb hm (State.eraseFault_none.2 hargs)

/-- Settles O20: a frame that answers a next state is due, so its statement and, through the multiplexer, the mode and the operands are given. -/
theorem framesIssuedOnlyByTheirRequest : Obligations.FramesIssuedOnlyByTheirRequest := by
  intro i s t hport h
  obtain ⟨p, hs, hc, hi⟩ := State.frameDue_eq_some.1 (exec_frame_next hport h).1
  refine ⟨hc, ?_⟩
  cases p with
  | gateWren u => cases hi; exact ⟨u, hs⟩
  | initRsten | initRstmem | chipCmd | statusCmd => cases hi; exact hs
  | initEn4b => cases hi; exact .inl hs
  | enter4bEn4b => cases hi; exact .inr hs
  | readCmd =>
    cases h4 : s.stat.addr4 with
    | false => rw [State.frameAt, State.quadReadFrame_addr3 _ _ h4] at hi; cases hi; exact ⟨hs, rfl, rfl, rfl⟩
    | true => rw [State.frameAt, State.quadReadFrame_addr4 _ _ h4] at hi; cases hi; exact ⟨hs, rfl, rfl, rfl⟩
  | writeCmd =>
    cases h4 : s.stat.addr4 with
    | false => rw [State.frameAt, State.programFrame_addr3 _ _ h4] at hi; cases hi; exact ⟨hs, rfl, rfl, rfl⟩
    | true => rw [State.frameAt, State.programFrame_addr4 _ _ h4] at hi; cases hi; exact ⟨hs, rfl, rfl, rfl⟩
  | eraseCmd =>
    cases h4 : s.stat.addr4 with
    | false => rw [State.frameAt, State.sectorFrame_addr3 _ h4] at hi; cases hi; exact ⟨hs, rfl, rfl⟩
    | true => rw [State.frameAt, State.sectorFrame_addr4 _ h4] at hi; cases hi; exact ⟨hs, rfl, rfl⟩
  | _ => cases hi

/-! ### Register writes and bad register accesses (spec/10 R31, R33, spec/20 R86) -/

/-- A register is found at its own offset alone, by an aligned 32-bit access. -/
theorem accessed_eq_some {offset width : Nat} {r : Reg} (h : accessed offset width = some r) : width = 4 ∧ offset = r.offset := by
  unfold accessed at h
  split at h
  · next hw =>
    refine ⟨hw.1, ?_⟩
    unfold regAt at h
    split at h <;> cases h <;> rfl
  · cases h

/-- The register block is the aligned words below offset 0x28 (spec/20 R83). -/
theorem Reg.offset_aligned (r : Reg) : r.offset % 4 = 0 ∧ r.offset < 0x28 := by cases r <;> decide

/-- An access that is no aligned 32-bit word of the register block finds no register. -/
theorem accessed_eq_none {offset width : Nat} (h : width ≠ 4 ∨ offset % 4 ≠ 0 ∨ 0x28 ≤ offset) : accessed offset width = none := by
  cases ha : accessed offset width with
  | none => rfl
  | some r =>
    obtain ⟨rfl, rfl⟩ := accessed_eq_some ha
    have := r.offset_aligned
    omega

/-- From offset 0x10 on every register is read only. -/
theorem State.hostArgWrite_readOnly {s : State} {r : Reg} {v : Word} (h : 0x10 ≤ r.offset) :
    s.hostArgWrite r v = s.raise .registerAccess := by
  cases r with
  | req | arg0 | arg1 | arg2 => simp [Reg.offset] at h
  | _ => rfl

/-- A register write that is no aligned 32-bit word or that REQ and the ARG registers do not take is the fault RegisterAccess. -/
theorem State.hostRegWrite_bad {s : State} {offset width : Nat} {v : Word} (h : width ≠ 4 ∨ offset % 4 ≠ 0 ∨ 0x10 ≤ offset) :
    s.hostRegWrite offset width v = s.raise .registerAccess := by
  unfold State.hostRegWrite
  cases ha : accessed offset width with
  | none => rfl
  | some r =>
    obtain ⟨rfl, rfl⟩ := accessed_eq_some ha
    have hr : 0x10 ≤ r.offset := by
      have := r.offset_aligned
      omega
    cases r with
    | req => simp [Reg.offset] at hr
    | _ => exact State.hostArgWrite_readOnly hr

/-- Settles O25: the access finds no register, or one that is read only. -/
theorem badRegisterAccessFaults : Obligations.BadRegisterAccessFaults := by
  intro s off width v rest ts ht hf h
  rcases h with ⟨hh, hbad⟩ | ⟨hh, hbad⟩
  · rw [step_host ht hf]
    simp only [State.hostTurn, hh, State.hostRegRead, accessed_eq_none hbad]
    rfl
  · rw [step_regWrite ht hf hh, State.hostRegWrite_bad hbad]
    rfl

/-- Settles O26: each ARG register is found at its own offset, whether a request runs or not. -/
theorem argWritesStore : Obligations.ArgWritesStore := by
  intro s v rest ts r ht hh hf
  have hstep := step_regWrite ht hf hh
  refine ⟨?_, ?_, ?_⟩
  all_goals
    rintro rfl
    rw [hstep]
    rfl

/-! ### The state right after reset (spec/10 R60) -/

/-- Settles O48: right after reset no request runs, no call is outstanding, the modes are clear and the parameters are legal. -/
theorem invariantsHoldAtReset : Obligations.InvariantsHoldAtReset := by
  have hoperand : State.reset.operandInv = true := by
    rw [State.operandInv, Bool.and_eq_true]
    exact ⟨Config.params_valid, rfl⟩
  exact ⟨State.reset_blockReset ▸ State.controlInv_blockReset State.reset, hoperand, State.callAgrees_of_no_call rfl,
    State.gateTraceOk_of_not_running (fun _ h => by cases h), State.reset_mem_wf⟩

end Sys2Proof.Machine

/-! ## The runs of INIT, ENTER_4BYTE, ENTER_MEMORY_MAPPED and GET_STATUS (spec/43, spec/46) -/

namespace Sys2Proof.Machine

/-! ### Their blocks -/

/-- STAT with MMAP = 0, field by field. -/
theorem Stat.eq_of_unmapped {t : Stat} (h : t.mmap = false) : t = ⟨t.busy, t.done, t.result, t.addr4, false, t.lastSr⟩ := by
  cases t
  cases h
  rfl

/-- By default the sequencer performs `finish` when the running request comes to it (spec/60 R303). -/
theorem step_finish {s : State} {i : Instr} {c : ResultCode} (ht : s.turns = []) (hs : s.seq = .running (.finish i c))
    (hc : s.call = none) : step s = .next (s.finish c) := step_perform ht hs hc rfl

/-- A frame without address and data that is answered OK, and its ready wait with its answer `a`. -/
theorem run_plain_ready {s : State} {p q p' : Pos} {i : Instr} {code : Byte} {c : PollClass} {a : Answer} {rest : List Answer}
    (ht : s.turns = []) (hs : s.seq = .running p) (hc : s.call = none) (hi : s.frameAt p = some i)
    (hd : frameDesc s.cfg i = some (plainDesc code)) (hq : ∀ t : State, t.after .ok p = q) (hf : ∀ t : State, t.frameAt q = none)
    (hp : ∀ t : State, t.perform q = t.callReadyPoll c) (hr : s.transport = .ok :: a :: rest)
    (ha : admits (readyCall s.cfg c) a = true) (hq' : ∀ t : State, t.after a q = p') :
    Host.Core.run Sys2Proof.core 4 s = .next
      { s with
        seq := .running p', cmdDesc := cmdRegs (statusDesc s.cfg.cmdRdsr), pollDesc := pollRegs (readyPoll s.cfg)
        pollClass := c.bits, transport := rest
        trace := s.trace ++ exchange [(plainCall code, .ok), (readyCall s.cfg c, a)] } := by
  refine run_then 2 2 (run_frame ht hs hc hi hd hr rfl (hq s)) ?_
  refine Eq.trans (run_poll (p := q) (q := readyPoll s.cfg) (c := c) ht rfl hc (hf _) (hp _) rfl ha (hq' _)) ?_
  simp only [exchange, List.append_assoc, plainCall, readyCall, List.cons_append, List.nil_append]

/-! ### INIT (spec/43 R212, R216) -/

/-- Settles O32: the gate, then each of the three frames with its ready wait, the two assignments to ADDR4 in between. -/
theorem initRunSucceeds : Obligations.InitRunSucceeds := by
  intro s rest more w b1 b2 b3 h hw h1 h2 h3
  obtain ⟨ht, -, hr, -, hc, -, hm⟩ := id h
  have hreset := run_then 4 4 (run_gate (s := State.accept .init (startOf .init) { s with host := rest }) ht rfl hc hr hw)
    (run_plain_ready (p := .initRsten) ht rfl hc rfl rfl (fun _ => rfl) (fun _ => rfl) (fun _ => rfl) rfl h1 (fun _ => rfl))
  have hclear := run_then 8 5 hreset (run_then 4 1
    (run_plain_ready (p := .initRstmem) ht rfl hc rfl rfl (fun _ => rfl) (fun _ => rfl) (fun _ => rfl) rfl h2 (fun _ => rfl))
    (run_via 0 (step_perform ht rfl hc rfl) (run_zero _)))
  have hset := run_then 13 5 hclear (run_then 4 1
    (run_plain_ready (p := .initEn4b) ht rfl hc rfl rfl (fun _ => rfl) (fun _ => rfl) (fun _ => rfl) rfl h3 (fun _ => rfl))
    (run_via 0 (step_perform ht rfl hc rfl) (run_zero _)))
  refine ⟨_, _, run_via 18 (step_accept h rfl rfl) hset, ?_, step_finish ht rfl hc, rfl, hc, ?_, rfl, rfl, rfl, rfl, rfl, rfl, ?_⟩
  · exact Stat.eq_of_unmapped hm
  · exact Stat.eq_of_unmapped hm
  · simp only [State.perform, State.finish_trace, State.goto_trace, State.goto_cfg, State.setAddr4, State.accept, gateCalls, exchange,
      List.append_assoc, List.cons_append, List.nil_append]

/-! ### ENTER_4BYTE (spec/43 R220) -/

/-- Settles O34: the EN4B frame and its ready wait, and the assignment to ADDR4 on success only. -/
theorem enter4ByteRuns : Obligations.Enter4ByteRuns := by
  intro s rest more b y hb hy
  refine ⟨fun h => ?_, fun h => ?_, fun h => ?_⟩
  all_goals obtain ⟨ht, -, hr, -, hc, -, hm⟩ := id h
  · have hset := run_then 4 1
      (run_plain_ready (s := State.accept .enter4b (startOf .enter4b) { s with host := rest }) ht rfl hc rfl rfl (fun _ => rfl)
        (fun _ => rfl) (fun _ => rfl) hr hb (fun _ => rfl))
      (run_via 0 (step_perform ht rfl hc rfl) (run_zero _))
    exact ⟨_, _, run_via 5 (step_accept h rfl rfl) hset, Stat.eq_of_unmapped hm, step_finish ht rfl hc, rfl, Stat.eq_of_unmapped hm, rfl,
      rfl, rfl, rfl⟩
  · have hfail := run_frame (s := State.accept .enter4b (startOf .enter4b) { s with host := rest }) ht rfl hc rfl rfl hr rfl rfl
    exact ⟨_, run_via 3 (step_accept h rfl rfl) (run_then 2 1 hfail (run_via 0 (step_finish ht rfl hc) (run_zero _))), rfl,
      Stat.eq_of_unmapped hm, rfl⟩
  · have hfail := run_plain_ready (s := State.accept .enter4b (startOf .enter4b) { s with host := rest }) ht rfl hc rfl rfl (fun _ => rfl)
      (fun _ => rfl) (fun _ => rfl) hr hy (fun _ => rfl)
    exact ⟨_, run_via 5 (step_accept h rfl rfl) (run_then 4 1 hfail (run_via 0 (step_finish ht rfl hc) (run_zero _))), rfl,
      Stat.eq_of_unmapped hm, rfl⟩

/-! ### ENTER_MEMORY_MAPPED (spec/43 R226, R227) -/

/-- MemMapCfg with the read template of the mode, and its answer. -/
theorem run_mapCfg {s : State} {q : Pos} {a : Answer} {rest : List Answer} (ht : s.turns = []) (hs : s.seq = .running .mapCfg)
    (hc : s.call = none) (hr : s.transport = a :: rest) (ha : admits (.memMapCfg (s.desc .qfr 0 0) s.cfg.mmTimeoutCfg) a = true)
    (hq : s.after a .mapCfg = q) :
    Host.Core.run Sys2Proof.core 2 s = .next
      { s with
        seq := .running q, call := none, cmdDesc := cmdRegs (s.desc .qfr 0 0), transport := rest
        trace := s.trace ++ exchange [(.memMapCfg (s.desc .qfr 0 0) s.cfg.mmTimeoutCfg, a)] } := by
  refine run_via 1 (step_perform ht hs hc rfl) (run_via 0 (step_answered (s := s.perform .mapCfg) ht hs rfl hr ha hq) ?_)
  rw [run_zero]
  simp only [State.perform, State.callMemMapCfg, State.placeCall, exchange, List.append_assoc, List.cons_append, List.nil_append]

/-- Settles O35: the call, and the assignment to MMAP on success only. -/
theorem enterMemoryMappedRuns : Obligations.EnterMemoryMappedRuns := by
  intro s rest more same
  refine ⟨fun h => ?_, fun h => ?_⟩
  all_goals obtain ⟨ht, -, hr, -, hc, -, hm⟩ := id h
  · have hset := run_then 2 1 (run_mapCfg (s := State.accept .enterMm (startOf .enterMm) { s with host := rest }) ht rfl hc hr rfl rfl)
      (run_via 0 (step_perform ht rfl rfl rfl) (run_zero _))
    exact ⟨_, _, run_via 3 (step_accept h rfl rfl) hset, rfl, step_finish ht rfl rfl, ⟨rfl, rfl, rfl, rfl⟩, rfl, rfl⟩
  · have hfail := run_mapCfg (s := State.accept .enterMm (startOf .enterMm) { s with host := rest }) ht rfl hc hr rfl rfl
    exact ⟨_, run_via 3 (step_accept h rfl rfl) (run_then 2 1 hfail (run_via 0 (step_finish ht rfl rfl) (run_zero _))),
      ⟨rfl, rfl, rfl, rfl⟩, Stat.eq_of_unmapped hm, rfl⟩

/-! ### GET_STATUS (spec/46 R290 to R292) -/

/-- The code of GET_STATUS is OK iff every bit of BUSY_MASK is clear in the byte. -/
theorem statusResult_eq (mask b : Byte) : statusResult mask b = if b &&& mask = 0 then .ok else .busy := by
  simp only [statusResult, ne_eq, ite_not]

/-- Settles O41: the RDSR frame, RxData, the assignment to LAST_SR, and `finish` with the byte's code. -/
theorem getStatusRuns : Obligations.GetStatusRuns := by
  intro s rest more b h
  obtain ⟨ht, -, hr, -, hc, -, hm⟩ := id h
  have hread := run_then 2 2
    (run_frame (s := State.accept .getStatus (startOf .getStatus) { s with host := rest }) ht rfl hc rfl rfl hr rfl rfl)
    (run_data (p := .statusData) ht rfl hc rfl rfl rfl rfl rfl)
  have hsave := run_then 4 1 hread (run_via 0 (step_perform ht rfl hc rfl) (run_zero _))
  refine ⟨_, _, run_via 5 (step_accept h rfl rfl) hsave, Stat.eq_of_unmapped hm, step_finish ht rfl hc, rfl, ?_, rfl, rfl, rfl, ?_⟩
  · rw [← statusResult_eq]
    exact Stat.eq_of_unmapped hm
  · exact List.append_assoc ..

end Sys2Proof.Machine

/-! ## Host memory and the memory-mapped window (spec/20 R82, R86, R90, R95, R96, R97) -/

namespace Sys2Proof.Machine

/-! ### The canonical form of host memory (spec/20 R82) -/

/-- A statement that is no IssueCmd writes at most one byte of host memory. -/
theorem State.perform_mem (s : State) (p : Pos) :
    (s.perform p).mem = s.mem ∨ ∃ (a : Word) (b : Byte), (s.perform p).mem = s.mem.write a.toNat b := by
  cases p with
  | readStore i rest =>
    cases rest with
    | nil => exact .inl rfl
    | cons b bs => exact .inr ⟨_, b, rfl⟩
  | readAny i => exact .inr ⟨_, _, rfl⟩
  | _ => exact .inl rfl

/-- Every move keeps the canonical form: it writes at most one byte of host memory. -/
theorem Move.mem_wf {s t : State} (hw : s.mem.wf = true) (h : Move s t) : t.mem.wf = true := by
  cases h with
  | perform p _ _ _ =>
    rcases s.perform_mem p with hm | ⟨a, b, hm⟩
    · rwa [hm]
    · rw [hm]
      exact Memory.wf_write hw a.isLt b
  | store a b _ _ => exact Memory.wf_write hw a.isLt b
  | _ => exact hw

/-- Settles O49: a step is block reset, which keeps host memory, or a move of an agent. -/
theorem memoryFormKept : Obligations.MemoryFormKept := by
  intro s t hw h
  obtain ⟨ts, ⟨-, rfl⟩ | ⟨-, -, hm⟩⟩ := step_move h
  · exact State.blockReset_wf (s := { s with turns := ts }) hw
  · exact Move.mem_wf (s := { s with turns := ts }) hw hm

/-! ### What the window shows (spec/20 R87, R97) -/

theorem windowBytes_length (k a n : Nat) : (windowBytes k a n).length = n := by
  induction n generalizing a with
  | zero => rfl
  | succ n ih => rw [windowBytes, List.length_cons, ih]

/-- Byte `i` of a window read is the free byte of flash address `a + i`. -/
theorem windowBytes_getElem? (k a : Nat) {n i : Nat} (h : i < n) : (windowBytes k a n)[i]? = some (Config.windowByte k (a + i)) := by
  induction n generalizing a i with
  | zero => cases h
  | succ n ih =>
    cases i with
    | zero => rfl
    | succ i => rw [windowBytes, List.getElem?_cons_succ, ih (a + 1) (Nat.lt_of_succ_lt_succ h), Nat.succ_add_eq_add_succ]

/-- A 24-bit flash address comes back from the ADDR field of 3-byte mode (spec/30 R117). -/
theorem zext24_low24 {a : Nat} (h : a < 2 ^ 24) : zext24 (low24 (BitVec.ofNat 32 a)) = BitVec.ofNat 32 a := by
  refine BitVec.eq_of_toNat_eq ?_
  simp only [zext24, low24, BitVec.toNat_setWidth, BitVec.toNat_ofNat]
  omega

/-- The template that ENTER_MEMORY_MAPPED configures, with the address and the length of a read the mode can encode, is the descriptor of QFR for
that read (spec/20 R95, spec/43 R226). -/
theorem windowDesc_template {s : State} {a : Nat} (n : Nat) (h : s.stat.addr4 = false → a < 2 ^ 24) :
    windowDesc (s.desc .qfr 0 0) a n = s.desc .qfr (BitVec.ofNat 32 a) (BitVec.ofNat 32 n) := by
  unfold State.desc
  cases h4 : s.stat.addr4 with
  | true => rfl
  | false =>
    simp only [zext24_low24 (h h4)]
    rfl

/-! ### Which window accesses are translated (spec/20 R90, R95, R96) -/

theorem State.windowReadOk_iff {s : State} {h : Word} {n : Nat} :
    s.windowReadOk h n = true ↔
      s.stat.mmap = true ∧ (n = 1 ∨ n = 2 ∨ n = 4) ∧ h.toNat % n = 0 ∧ s.cfg.mmBase.toNat ≤ h.toNat ∧
        h.toNat + n ≤ s.cfg.mmBase.toNat + s.cfg.flashSize ∧
        (s.stat.addr4 = false → h.toNat - s.cfg.mmBase.toNat + n ≤ 2 ^ 24) := by
  cases h4 : s.stat.addr4 with
  | false | true => simp [State.windowReadOk, h4, and_assoc, or_assoc]

/-- A window read that R95 translates goes through the configured template. -/
theorem State.hostWindowRead_ok {s : State} {h : Word} {n : Nat} {d : CmdDesc} (hw : s.window = some d) (hok : s.windowReadOk h n = true) :
    s.hostWindowRead h n = .next (s.log (.windowRead h (windowDesc d (h.toNat - s.cfg.mmBase.toNat) n)
      (windowBytes s.period (h.toNat - s.cfg.mmBase.toNat) n))) := by
  simp only [State.hostWindowRead, hw, hok, if_true]

/-- A window read that R95 does not translate is the fault WindowAccess, whatever the transport's configuration. -/
theorem State.hostWindowRead_bad {s : State} {h : Word} {n : Nat} (hbad : ¬ s.windowReadOk h n = true) :
    s.hostWindowRead h n = s.raise .windowAccess := by
  cases hw : s.window with
  | none => simp only [State.hostWindowRead, hw]
  | some d => simp only [State.hostWindowRead, hw, if_neg hbad]

/-- A turn given to the host for a window read: the access and the turn are used up. -/
theorem step_windowRead {s : State} {h : Word} {n : Nat} {rest : List HostOp} {ts : List Turn} (ht : s.turns = .host :: ts)
    (hf : ∀ r, s.seq ≠ .faulted r) (hh : s.host = .windowRead h n :: rest) :
    step s = State.hostWindowRead h n { s with turns := ts, host := rest } := by
  rw [step_host ht hf]
  simp only [State.hostTurn, hh]

/-- Settles O27: while MMAP = 1 the configuration is the template of the mode, and the bytes are those of the window. -/
theorem windowReadTranslated : Obligations.WindowReadTranslated := by
  intro s h n rest ts ht hh hf hw hm hwidth halign hlow hhigh h24
  have hn : 0 < n := by omega
  have hwindow : s.window = some (s.desc .qfr 0 0) := by
    rwa [State.windowAgrees, hm, if_pos rfl, beq_iff_eq] at hw
  have hreach : s.stat.addr4 = false → h.toNat - s.cfg.mmBase.toNat + n ≤ 2 ^ 24 := fun h4 => by
    have := h24 h4
    omega
  have hok : State.windowReadOk { s with turns := ts, host := rest } h n = true :=
    State.windowReadOk_iff.2 ⟨hm, hwidth, halign, hlow, hhigh, hreach⟩
  refine ⟨_, windowBytes_length .., fun i hi => windowBytes_getElem? _ _ hi, ?_⟩
  rw [step_windowRead ht hf hh, State.hostWindowRead_ok (s := { s with turns := ts, host := rest }) hwindow hok,
    windowDesc_template n fun h4 => Nat.lt_of_lt_of_le (Nat.lt_add_of_pos_right hn) (hreach h4)]
  rfl

/-- Settles O28: a window write always faults, and each of the other conditions contradicts a condition of R95. -/
theorem windowAccessFaults : Obligations.WindowAccessFaults := by
  rintro s h n rest ts ht hf (hh | ⟨hh, hbad⟩)
  · rw [step_host ht hf]
    simp only [State.hostTurn, hh]
    rfl
  · rw [step_windowRead ht hf hh, State.hostWindowRead_bad]
    · rfl
    · intro hok
      obtain ⟨hm, hwidth, halign, hlow, hhigh, hreach⟩ := State.windowReadOk_iff.1 hok
      rcases hbad with hbad | hbad | hbad | hbad | hbad | ⟨h4, hbad⟩
      · cases hm.symm.trans hbad
      · omega
      · exact hbad halign
      · exact Nat.not_le_of_lt hbad hlow
      · exact Nat.not_le_of_lt hbad hhigh
      · have hle : h.toNat - s.cfg.mmBase.toNat + n ≤ 2 ^ 24 := hreach h4
        omega

/-! ### The host's byte accesses (spec/20 R86, R95, R96, spec/60 R332, spec/70 R353) -/

theorem inRange_iff {r : Nat × Nat} {a : Nat} : inRange r a = true ↔ r.1 ≤ a ∧ a < r.1 + r.2 := by
  simp only [inRange, Bool.and_eq_true, decide_eq_true_eq]

/-- The bytes the host has no move on: those of [L_A2, L_A2 + L_A1) while a READ or WRITE runs. -/
theorem State.bufferBusy_iff {s : State} {a : Word} :
    s.bufferBusy a = true ↔
      (∃ p, s.seq = .running p) ∧ (s.latch.op = 2 ∨ s.latch.op = 3) ∧ s.latch.a2.toNat ≤ a.toNat ∧
        a.toNat < s.latch.a2.toNat + s.latch.a1.toNat := by
  unfold State.bufferBusy
  cases hs : s.seq with
  | idle | faulted _ => simp
  | running p => simp [requestOp, and_assoc]

/-- Settles O59: a byte access goes by the ranges in the order block, window, buffer, and the rest is host memory. -/
theorem runningBufferIsTheCores : Obligations.RunningBufferIsTheCores := by
  intro s a b rest ts ht hf hw inBlock inWindow held faults
  have block : inRange s.cfg.regBlock a.toNat = true ↔ inBlock := inRange_iff
  have window : inRange s.cfg.mmWindow a.toNat = true ↔ inWindow := inRange_iff
  have busy : State.bufferBusy { s with turns := ts, host := rest } a = true ↔ held := State.bufferBusy_iff
  rw [← block, ← window, ← busy]
  refine ⟨fun hh => ?_, fun hh => ?_⟩
  · have hstep : step s = State.hostStore a b { s with turns := ts, host := rest } := by
      rw [step_host ht hf]
      simp only [State.hostTurn, hh]
    simp only [faults, hstep, State.hostStore]
    refine ⟨fun hb => if_pos hb, fun hb hi => ?_, fun hb hi hd => ?_, fun hb hi hd => ?_⟩
    · rw [if_neg hb, if_pos hi]
      rfl
    · rw [if_neg hb, if_neg hi, if_pos hd]
    · rw [if_neg hb, if_neg hi, if_neg hd]
      exact ⟨_, rfl, Memory.read_write_same hw _ b, fun x hx => Memory.read_write_other s.mem b hx, rfl⟩
  · have hstep : step s = State.hostLoad a { s with turns := ts, host := rest } := by
      rw [step_host ht hf]
      simp only [State.hostTurn, hh]
    simp only [faults, hstep, State.hostLoad]
    refine ⟨fun hb => if_pos hb, fun hb hi => ?_, fun hb hi hd => ?_, fun hb hi hd => ?_⟩
    · rw [if_neg hb, if_pos hi, step_windowRead (s := { s with host := .windowRead a 1 :: rest }) ht hf rfl]
    · rw [if_neg hb, if_neg hi, if_pos hd]
    · rw [if_neg hb, if_neg hi, if_neg hd]
      rfl

end Sys2Proof.Machine

/-! ## Encodings: the requests, the frames and their words (spec/30) -/

namespace Sys2Proof

open Machine (decodeRequest_port)

/-! ### Request words (spec/30 R110 to R112) -/

theorem frameDesc_of_request {i : Instr} (hport : i.port = .req) (p : Params) : frameDesc p i = none := by
  cases i with
  | init | read | write | erase | eraseChip | getStatus | getGeometry | enterMm | enter4b => rfl
  | _ => cases hport

theorem encode_of_request {i : Instr} (hport : i.port = .req) (p : Params) : encode p i = [requestWord i] := by
  rw [encode, frameDesc_of_request hport]

theorem decodeRequest_requestWord {i : Instr} (hport : i.port = .req) : decodeRequest (requestWord i) = .ok i := by
  cases i with
  | init | read | write | erase | eraseChip | getStatus | getGeometry | enterMm | enter4b => rfl
  | _ => cases hport

/-- RSV = 0 and OP in 0x1 .. 0x9, as a bound on the whole word (spec/30 R111). -/
theorem requestFields_iff (w : Word) :
    (w.extractLsb' 4 28 = 0 ∧ 1 ≤ (w.extractLsb' 0 4).toNat ∧ (w.extractLsb' 0 4).toNat ≤ 9) ↔ 1 ≤ w.toNat ∧ w.toNat ≤ 9 := by
  have hw := w.isLt
  simp only [← BitVec.toNat_inj, BitVec.extractLsb'_toNat, Nat.shiftRight_eq_div_pow, BitVec.toNat_ofNat, BitVec.ofNat_eq_ofNat]
  omega

theorem decodeRequest_legal {w : Word} (h : 1 ≤ w.toNat ∧ w.toNat ≤ 9) : ∃ i, decodeRequest w = .ok i := by
  obtain ⟨hlow, hhigh⟩ := h
  unfold decodeRequest
  generalize w.toNat = n at hlow hhigh
  interval_cases n <;> exact ⟨_, rfl⟩

theorem decodeRequest_illegal {w : Word} (h : ¬ (1 ≤ w.toNat ∧ w.toNat ≤ 9)) : decodeRequest w = .error .illegalRequest := by
  unfold decodeRequest
  split
  any_goals omega
  rfl

/-- Settles O1: the fields of R110 bound the word, and the decoder accepts the words in the bound. -/
theorem requestWordsAreTheNine : Obligations.RequestWordsAreTheNine := by
  intro w
  rw [requestFields_iff]
  refine ⟨fun h => ?_, decodeRequest_illegal, rfl, rfl, rfl, rfl, rfl, rfl, rfl, rfl, rfl⟩
  obtain ⟨i, hi⟩ := decodeRequest_legal h
  exact ⟨i, hi, decodeRequest_port hi⟩

/-! ### Frames and their descriptors (spec/30 R115 to R119, R126) -/

theorem frameDesc_of_frame {i : Instr} (hport : i.port = .cmd) (p : Params) : ∃ d, frameDesc p i = some d := by
  cases i with
  | init | read | write | erase | eraseChip | getStatus | getGeometry | enterMm | enter4b => cases hport
  | _ => exact ⟨_, rfl⟩

theorem port_of_frameDesc {p : Params} {i : Instr} {d : CmdDesc} (hd : frameDesc p i = some d) : i.port = .cmd := by
  cases hport : i.port with
  | req => cases (frameDesc_of_request hport p).symm.trans hd
  | cmd => rfl

theorem encode_of_frameDesc {p : Params} {i : Instr} {d : CmdDesc} (hd : frameDesc p i = some d) : encode p i = d.words := by
  rw [encode, hd]

/-- Settles O3: a request's word gives it back, and the words of a frame's descriptor give the frame back. -/
theorem decodeOfEncode : Obligations.DecodeOfEncode := by
  intro p i hv
  cases hport : i.port with
  | req =>
    rw [encode_of_request hport]
    exact decodeRequest_requestWord hport
  | cmd =>
    obtain ⟨d, hd⟩ := frameDesc_of_frame hport p
    rw [encode_of_frameDesc hd]
    exact decode_words hv hd

/-! ### What the decoder has read when it answers a frame -/

/-- The four fields the decoder reads make up DW0. -/
theorem dw0_of_fields (w : Word) : w = reservedField w ++ dummyField w ++ layoutField w ++ instrField w := by
  unfold reservedField dummyField layoutField instrField
  refine BitVec.eq_of_getLsbD_eq fun j hj => ?_
  simp only [BitVec.getLsbD_append, BitVec.getLsbD_extractLsb']
  interval_cases j <;> simp

/-- The candidate picked is one of the list, and its code is INSTR. -/
theorem mem_of_pickFrame {code : Byte} {cs : List (Byte × Instr)} {i : Instr} (h : pickFrame code cs = some i) : (code, i) ∈ cs := by
  induction cs with
  | nil => cases h
  | cons c cs ih =>
    unfold pickFrame at h
    split at h
    · next hc =>
      cases h
      subst hc
      exact List.mem_cons_self ..
    · exact List.mem_cons_of_mem _ (ih h)

/-- A candidate of a layout has that layout, and the code it is listed with. -/
theorem desc_of_layoutFrames {p : Params} {b code : Byte} {addr len : Word} {i : Instr} {d : CmdDesc}
    (hmem : (code, i) ∈ layoutFrames p b addr len) (hd : frameDesc p i = some d) :
    d.instr = code ∧ layoutField (layoutWord d.dwidth d.ddir d.awidth) = b := by
  have candidate {j : Instr} {e : CmdDesc} {k : Byte} (he : frameDesc p j = some e) (hj : (code, i) = (e.instr, j))
      (hk : layoutField (layoutWord e.dwidth e.ddir e.awidth) = k) (hb : b.toNat = k.toNat) :
      d.instr = code ∧ layoutField (layoutWord d.dwidth d.ddir d.awidth) = b := by
    cases hj
    cases he.symm.trans hd
    exact ⟨rfl, hk.trans (BitVec.eq_of_toNat_eq hb.symm)⟩
  unfold layoutFrames at hmem
  split at hmem
  · next hb =>
    simp only [List.mem_cons, List.not_mem_nil, or_false] at hmem
    rcases hmem with hj | hj | hj | hj | hj
    · exact candidate (j := .wren) rfl hj layoutField_plain hb
    · exact candidate (j := .rsten) rfl hj layoutField_plain hb
    · exact candidate (j := .rstmem) rfl hj layoutField_plain hb
    · exact candidate (j := .en4b) rfl hj layoutField_plain hb
    · exact candidate (j := .ce) rfl hj layoutField_plain hb
  · next hb => exact candidate (j := .rdsr) rfl (List.mem_singleton.1 hmem) layoutField_status hb
  · next hb => exact candidate (j := .pp3 _ _) rfl (List.mem_singleton.1 hmem) layoutField_program24 hb
  · next hb => exact candidate (j := .pp4 _ _) rfl (List.mem_singleton.1 hmem) layoutField_program32 hb
  · next hb => exact candidate (j := .qfr3 _ _) rfl (List.mem_singleton.1 hmem) layoutField_quadRead24 hb
  · next hb => exact candidate (j := .qfr4 _ _) rfl (List.mem_singleton.1 hmem) layoutField_quadRead32 hb
  · next hb => exact candidate (j := .se3 _) rfl (List.mem_singleton.1 hmem) layoutField_sector24 hb
  · next hb => exact candidate (j := .se4 _) rfl (List.mem_singleton.1 hmem) layoutField_sector32 hb
  · cases hmem

/-- The frame that passes the check of its fixed parts has a descriptor with the dummy count and the two words given. -/
theorem desc_of_checkFrame {p : Params} {i j : Instr} {dummy : BitVec 5} {dw1 dw2 : Word} (h : checkFrame p i dummy dw1 dw2 = .ok j) :
    j = i ∧ ∃ d, frameDesc p i = some d ∧ d.dummy = dummy ∧ d.addr = dw1 ∧ d.dlen = dw2 := by
  unfold checkFrame at h
  cases hd : frameDesc p i with
  | none => simp [hd] at h
  | some d =>
    simp only [hd] at h
    split_ifs at h with hdummy haddr hlen
    cases h
    exact ⟨rfl, d, rfl, Decidable.not_not.1 hdummy, Decidable.not_not.1 haddr, Decidable.not_not.1 hlen⟩

/-- An answer of the frame decoder: the reserved field is 0, and the frame is the candidate of the layout that has the code and the fixed parts. -/
theorem decodeFrame_ok {p : Params} {dw0 dw1 dw2 : Word} {i : Instr} (h : decodeFrame p dw0 dw1 dw2 = .ok i) :
    reservedField dw0 = 0 ∧ (instrField dw0, i) ∈ layoutFrames p (layoutField dw0) dw1 dw2 ∧
      ∃ d, frameDesc p i = some d ∧ d.dummy = dummyField dw0 ∧ d.addr = dw1 ∧ d.dlen = dw2 := by
  unfold decodeFrame at h
  split at h
  · cases h
  next hreserved =>
  split at h
  · cases h
  next c cs hcs =>
  split at h
  · cases h
  next j hj =>
  obtain ⟨rfl, hdesc⟩ := desc_of_checkFrame h
  exact ⟨Decidable.not_not.1 hreserved, hcs ▸ mem_of_pickFrame hj, hdesc⟩

/-- Words that decode to a frame are the words of its descriptor. -/
theorem words_of_decodeFrame {p : Params} {dw0 dw1 dw2 : Word} {i : Instr} (h : decodeFrame p dw0 dw1 dw2 = .ok i) :
    ∃ d, frameDesc p i = some d ∧ d.words = [dw0, dw1, dw2] := by
  obtain ⟨hreserved, hmem, d, hd, hdummy, rfl, rfl⟩ := decodeFrame_ok h
  obtain ⟨hinstr, hlayout⟩ := desc_of_layoutFrames hmem hd
  obtain ⟨hinstr', hdummy', hlayout'⟩ := d.dw0_parts
  have hdw0 : d.dw0 = dw0 := by
    rw [dw0_of_fields d.dw0, dw0_of_fields dw0, (Laws.Encoding.dw0_fields d).1, hdummy', hlayout', hinstr', hreserved, hdummy, hlayout,
      hinstr]
  exact ⟨d, hd, by rw [CmdDesc.words, hdw0]⟩

/-- Settles O4: a word that decodes to a request is its word, and three words that decode to a frame are those of its descriptor. -/
theorem encodeOfDecode : Obligations.EncodeOfDecode := by
  intro p port ws i h
  unfold decode at h
  split at h
  · next w =>
    obtain ⟨hport, hw⟩ := decodeRequest_port h
    exact ⟨hport, by rw [encode_of_request hport, hw]⟩
  · obtain ⟨d, hd, hwords⟩ := words_of_decodeFrame h
    exact ⟨port_of_frameDesc hd, by rw [encode_of_frameDesc hd, hwords]⟩
  · cases h

/-! ### The fields and the words of the descriptors THE CORE emits (spec/30 R116, R118, R119, R120, R126) -/

/-- The width fields of any descriptor; `Laws.Encoding.dw0_fields` has the reserved ones and DDIR. -/
theorem CmdDesc.dw0_widths (d : CmdDesc) :
    d.dw0.extractLsb' 8 1 = BitVec.ofBool d.addrPresent ∧ d.dw0.extractLsb' 9 2 = d.awidth.bits ∧
      d.dw0.extractLsb' 13 1 = d.dwidth.bits := by
  unfold CmdDesc.dw0
  generalize BitVec.ofBool d.addrPresent = q, d.awidth.bits = a, d.ddir.bits = r, d.dwidth.bits = w
  refine ⟨BitVec.eq_of_getLsbD_eq fun j hj => ?_, BitVec.eq_of_getLsbD_eq fun j hj => ?_, BitVec.eq_of_getLsbD_eq fun j hj => ?_⟩
  all_goals interval_cases j <;> simp only [BitVec.getLsbD_extractLsb', BitVec.getLsbD_append] <;> simp

/-- ADDR_PRESENT by the two bits of AWIDTH (spec/30 R116). -/
theorem CmdDesc.addrPresent_iff (d : CmdDesc) : BitVec.ofBool d.addrPresent = 1 ↔ d.awidth.bits ≠ 0 := by
  unfold CmdDesc.addrPresent
  cases d.awidth <;> decide

theorem AWidth.bits_ne_reserved (a : AWidth) : a.bits ≠ 3 := by cases a <;> decide

theorem DDir.bits_ne_reserved (r : DDir) : r.bits ≠ 3 := by cases r <;> decide

/-- Desc gives a descriptor without data DWIDTH = 0 and DLEN = 0 (spec/30 R118). -/
theorem Machine.State.desc_without_data (s : Machine.State) (k : Kind) (a n : Word) (h : (s.desc k a n).ddir.bits = 0) :
    (s.desc k a n).dwidth.bits = 0 ∧ (s.desc k a n).dlen = 0 := by
  cases k with
  | wren | rsten | rstmem | en4b | ce => exact ⟨rfl, rfl⟩
  | rdsr => cases h
  | pp | qfr =>
    unfold Machine.State.desc at h
    cases h4 : s.stat.addr4 <;> simp only [h4] at h <;> cases h
  | se =>
    unfold Machine.State.desc
    cases s.stat.addr4 <;> exact ⟨rfl, rfl⟩

/-- Settles O5: the rules on the fields hold of any descriptor, the rule on one without data of those Desc builds. -/
theorem descriptorFieldRules : Obligations.DescriptorFieldRules := by
  intro s k a n w
  obtain ⟨hpresent, hawidth, hdwidth⟩ := (s.desc k a n).dw0_widths
  obtain ⟨hreserved, hreserved', hddir⟩ := Laws.Encoding.dw0_fields (s.desc k a n)
  rw [hpresent, hawidth, hdwidth, hddir]
  exact ⟨CmdDesc.addrPresent_iff _, hreserved', hreserved, AWidth.bits_ne_reserved _, DDir.bits_ne_reserved _,
    s.desc_without_data k a n⟩

end Sys2Proof

namespace Sys2Proof.Machine

/-- Settles O7: both polls differ in MODE and MASK only. -/
theorem pollWordsFollowTheLayout : Obligations.PollWordsFollowTheLayout := fun _ =>
  ⟨pollFlags_set ▸ pollRegs_pollOf .., pollFlags_clear ▸ pollRegs_pollOf ..⟩

/-- A frame's words, from what CMD_DESC takes for its descriptor. -/
theorem encode_of_cmdRegs {p : Params} {i : Instr} {d : CmdDesc} {w0 w1 w2 : Word} (hd : frameDesc p i = some d)
    (hr : cmdRegs d = ⟨w0, w1, w2⟩) : encode p i = [w0, w1, w2] :=
  (encode_of_frameDesc hd).trans (words_of_cmdRegs hr)

/-- Settles O2: each frame's descriptor has one of the five forms, whose words are known. -/
theorem frameWordsFollowTheTable : Obligations.FrameWordsFollowTheTable := by
  intro p a b n
  refine ⟨?_, ?_, ?_, ?_, ?_, ?_, ?_, ?_, ?_, ?_, ?_, ?_⟩
  · exact encode_of_cmdRegs rfl (cmdRegs_plainDesc _)
  · exact encode_of_cmdRegs rfl (cmdRegs_plainDesc _)
  · exact encode_of_cmdRegs rfl (cmdRegs_plainDesc _)
  · exact encode_of_cmdRegs rfl (cmdRegs_plainDesc _)
  · exact encode_of_cmdRegs rfl (cmdRegs_statusDesc _)
  · exact encode_of_cmdRegs rfl (layoutWord_program24 ▸ cmdRegs_programDesc ..)
  · exact encode_of_cmdRegs rfl (layoutWord_program32 ▸ cmdRegs_programDesc ..)
  · exact encode_of_cmdRegs rfl (cmdRegs_quadReadDesc ..)
  · exact encode_of_cmdRegs rfl (cmdRegs_quadReadDesc ..)
  · exact encode_of_cmdRegs rfl (layoutWord_sector24 ▸ cmdRegs_sectorDesc ..)
  · exact encode_of_cmdRegs rfl (layoutWord_sector32 ▸ cmdRegs_sectorDesc ..)
  · exact encode_of_cmdRegs rfl (cmdRegs_plainDesc _)

/-! ### A mutating frame and its gate (spec/30 R128, spec/41 R182) -/

theorem port_of_mutating {i : Instr} (h : i.mutating = true) : i.port = .cmd := by
  cases i with
  | pp3 _ _ | pp4 _ _ | se3 _ | se4 _ | ce => rfl
  | _ => cases h

theorem State.quadReadFrame_not_mutating (s : State) (a n : Word) : (s.quadReadFrame a n).mutating = false := by
  unfold State.quadReadFrame
  split <;> rfl

/-- Where a mutating frame is due, the trace ends with the gate. -/
theorem State.gateDone_of_frameDue {s : State} {i : Instr} (hg : s.gateTraceOk) (hm : i.mutating = true) (hdue : s.frameDue = some i) :
    gateDone s.cfg s.trace := by
  obtain ⟨p, hs, hc, hi⟩ := State.frameDue_eq_some.1 hdue
  simp only [State.gateTraceOk, hs, hc] at hg
  cases p with
  | writeCmd | eraseCmd | chipCmd => exact hg
  | readCmd =>
    cases hi
    rw [State.quadReadFrame_not_mutating] at hm
    cases hm
  | gateWren _ | initRsten | initRstmem | initEn4b | enter4bEn4b | statusCmd => cases hi; cases hm
  | _ => cases hi

/-- Settles O51: a mutating frame that answers a next state is due, so the gate comes before it, and it is its IssueCmd. -/
theorem mutatingFrameFollowsTheGate : Obligations.MutatingFrameFollowsTheGate := by
  intro s t i hg hm h
  obtain ⟨hdue, d, hd, rfl⟩ := exec_frame_next (port_of_mutating hm) h
  exact ⟨State.gateDone_of_frameDue hg hm hdue, d, hd, busEvents_append _ _⟩

/-! ### `wait` (spec/30 R135) -/

/-- Bit 0 of STAT is BUSY (spec/10 R34). -/
theorem Stat.word_bit_zero (t : Stat) : t.word.getLsbD 0 = t.busy := by
  simp only [Stat.word, BitVec.getLsbD_append]
  simp

/-- Settles O29: the read of STAT is in the trace whatever BUSY is, and the host goes on where it is 0. -/
theorem waitPollsStatus : Obligations.WaitPollsStatus := by
  intro s rest ts ht hh hf
  rw [step_host ht hf]
  simp only [State.hostTurn, hh, State.hostWait, Stat.word_bit_zero]
  cases s.stat.busy with
  | false => rfl
  | true =>
    rw [← hh]
    rfl

end Sys2Proof.Machine

namespace Sys2Proof

/-! ### Words of the opcode table (log entry 14) -/

/-- A legal REQ word is read as its request, whatever the parameters are. -/
theorem decodeTableWord_request {nbits w : Nat} {i : Instr} (hn : 32 ≤ nbits ∧ nbits ≤ 96) (hw : w < 2 ^ 32)
    (hi : decodeRequest (BitVec.ofNat 32 w) = .ok i) : decodeTableWord nbits w = some i := by
  unfold decodeTableWord
  rw [if_neg (by omega), if_pos hw, hi]

/-- A descriptor whose layout has one kind is read as that kind, whatever its code is. -/
theorem tableFrame_single {p : Params} {dw0 dw1 dw2 : Word} {c : Byte × Instr} (hr : reservedField dw0 = 0)
    (hcs : layoutFrames p (layoutField dw0) dw1 dw2 = [c]) : tableFrame p dw0 dw1 dw2 = some c.2 := by
  simp only [tableFrame, hr, hcs, ne_eq, not_true_eq_false, if_false]

/-- Settles O10: two words are requests, and each of the four descriptors has a layout of one kind. -/
theorem tableWordsDecode : Obligations.TableWordsDecode := by
  refine ⟨?_, ?_, ?_, ?_, ?_, ?_⟩
  · exact decodeTableWord_request (by decide) (by decide) rfl
  · exact decodeTableWord_request (by decide) (by decide) rfl
  · exact tableFrame_single (dw0 := 0x00000800) (dw1 := 0) (dw2 := 0) (by decide) rfl
  · exact tableFrame_single (dw0 := 0x00003300) (by decide) rfl
  · exact tableFrame_single (dw0 := 0x00082D00) (by decide) rfl
  · exact tableFrame_single (dw0 := 0x00000500) (dw2 := 0) (by decide) rfl

end Sys2Proof

namespace Sys2Proof.Machine

/-! ### The multiplexer and the encoder function choose alike (spec/40 R151, R152) -/

section
variable (s : State) (a n : Word)

theorem State.frameDesc_programFrame : frameDesc s.cfg (s.programFrame a n) = some (s.desc .pp a n) := by
  simp only [State.programFrame, State.desc]
  split <;> rfl

theorem State.frameDesc_quadReadFrame : frameDesc s.cfg (s.quadReadFrame a n) = some (s.desc .qfr a n) := by
  simp only [State.quadReadFrame, State.desc]
  split <;> rfl

/-- The descriptor of SE has no length, so `n` does not matter. -/
theorem State.frameDesc_sectorFrame : frameDesc s.cfg (s.sectorFrame a) = some (s.desc .se a n) := by
  simp only [State.sectorFrame, State.desc]
  split <;> rfl

end

/-- Settles O6: ADDR4 fixes the frame the multiplexer chooses, and Desc of the kind is the descriptor of that frame in either mode. -/
theorem addressingModeSelectsTheFrame : Obligations.AddressingModeSelectsTheFrame := by
  intro s a n
  have hpp := s.frameDesc_programFrame a n
  have hqfr := s.frameDesc_quadReadFrame a n
  have hse := s.frameDesc_sectorFrame a n
  refine ⟨fun h => ?_, fun h => ?_⟩
  · have pp := State.programFrame_addr4 a n h
    have qfr := State.quadReadFrame_addr4 a n h
    have se := State.sectorFrame_addr4 a h
    exact ⟨pp ▸ hpp, qfr ▸ hqfr, se ▸ hse, pp, qfr, se⟩
  · have pp := State.programFrame_addr3 a n h
    have qfr := State.quadReadFrame_addr3 a n h
    have se := State.sectorFrame_addr3 a h
    exact ⟨pp ▸ hpp, qfr ▸ hqfr, se ▸ hse, pp, qfr, se⟩

end Sys2Proof.Machine

/-! ## O30: the first failing answer (spec/41 R181, spec/43 R213, spec/60 R302 to R304) -/

namespace Sys2Proof.Machine

/-- FAIL and NOMATCH are the answers that count as failure (spec/60 R302). -/
theorem Answer.not_good_iff {a : Answer} : a.good = false ↔ a = .fail ∨ ∃ ss, a = .noMatch ss := by
  cases a <;> simp [Answer.good]

/-- A failing answer to a call ends the program with the code of that call, at every position but READ's RxData. -/
theorem State.after_failed {s : State} {p : Pos} {c : Call} {a : Answer} (hat : s.callAt p = some c) (ha : a.good = false)
    (hp : p ≠ .readData) : s.after a p = .finish p.request (failureCode p) := by
  cases p with
  | readData => exact absurd rfl hp
  | gateWren u => cases u <;> simp only [State.after, afterGateWren, ha] <;> rfl
  | gateWel u => cases u <;> simp only [State.after, afterGateWel, ha] <;> rfl
  | initRsten | initRstenReady | initRstmem | initRstmemReady | initEn4b | initEn4bReady | enter4bEn4b | enter4bReady | mapCfg | readCmd
  | writeCmd | writeData _ | writeReady | eraseCmd | eraseReady | chipCmd | chipReady | statusCmd | statusData =>
    simp only [State.after, orFinish, ha]
    rfl
  | _ => cases hat

/-- A failed RxData of READ goes through the loop over the destination bytes, where there are any (spec/44 R241). -/
theorem State.after_failed_readData (s : State) {a : Answer} (ha : a.good = false) :
    s.after a .readData = if 0 < s.latch.a1.toNat then .readAny 0 else .finish .read (failureCode .readData) := by
  simp only [State.after, ha]
  rfl

/-- The transport's turn, with the position the program goes on at. -/
theorem step_transport_at {s : State} {ts : List Turn} {p q : Pos} {c : Call} {a : Answer} {rest : List Answer}
    (ht : s.turns = .transport :: ts) (hs : s.seq = .running p) (hc : s.call = some c) (hr : s.transport = a :: rest)
    (ha : admits c a = true) (hq : s.after a p = q) :
    step s = .next
      { s with turns := ts, call := none, transport := rest, trace := s.trace ++ [.answer a], seq := .running q } :=
  (step_transport ht hs hc hr ha).trans (congrArg _ (State.answered_at ((State.after_congr rfl rfl a p).trans hq)))

/-- Settles O30: the transport's turn moves the program as a failing answer does, and `finish` is the statement of its position. -/
theorem firstFailureEndsTheRequest : Obligations.FirstFailureEndsTheRequest := by
  refine ⟨fun s p c a rest ts ht hs hc hat hr had hfail => ?_, fun s i c ts ht hs hc => step_sequencer ht hs hc rfl⟩
  have ha := Answer.not_good_iff.2 hfail
  refine step_transport_at ht hs hc hr had ?_
  by_cases hp : p = .readData
  · subst hp
    simp only [s.after_failed_readData ha, true_and]
    rfl
  · rw [if_neg fun h => hp h.1, State.after_failed hat ha hp]

end Sys2Proof.Machine

/-! ## The match of a status sample and the answers of a poll (spec/42 R193, R194, R198) -/

namespace Sys2Proof.Machine

/-! ### The match function (spec/42 R193) -/

/-- A byte covers a mask when each bit of the mask is set in it. -/
theorem and_eq_mask_iff {n : Nat} (b m : BitVec n) : b &&& m = m ↔ ∀ j, j < n → m.getLsbD j = true → b.getLsbD j = true := by
  rw [BitVec.eq_of_getLsbD_eq_iff]
  simp only [BitVec.getLsbD_and, Bool.and_eq_right_iff_imp]

/-- A byte avoids a mask when each bit of the mask is clear in it. -/
theorem and_eq_zero_iff {n : Nat} (b m : BitVec n) : b &&& m = 0 ↔ ∀ j, j < n → m.getLsbD j = true → b.getLsbD j = false := by
  rw [BitVec.and_comm, BitVec.eq_of_getLsbD_eq_iff]
  simp only [BitVec.getLsbD_and, BitVec.ofNat_eq_ofNat, BitVec.getLsbD_zero, Bool.and_eq_false_imp]

theorem sampleMatches_bitsSet {q : PollDesc} (b : Byte) (h : q.mode = .bitsSet) :
    sampleMatches b q = true ↔ b &&& q.mask.setWidth 8 = q.mask.setWidth 8 := by
  simp only [sampleMatches, h, beq_iff_eq]

theorem sampleMatches_bitsClear {q : PollDesc} (b : Byte) (h : q.mode = .bitsClear) :
    sampleMatches b q = true ↔ b &&& q.mask.setWidth 8 = 0 := by
  simp only [sampleMatches, h, beq_iff_eq]

/-- The low byte of a poll's MASK is the mask it was built from (spec/30 R120). -/
@[simp] theorem pollOf_mask_low (p : Params) (mask : Byte) (m : PollMode) : (pollOf p mask m).mask.setWidth 8 = mask :=
  (BitVec.setWidth_setWidth_of_le mask (by decide)).trans (BitVec.setWidth_eq mask)

/-- Settles O8: the match is an equation on MASK's low byte, which says the same of each bit. -/
theorem sampleMatchByMask : Obligations.SampleMatchByMask := by
  intro p q b
  rw [← BitVec.setWidth_eq_extractLsb' (by decide)]
  refine ⟨sampleMatches_bitsSet b, sampleMatches_bitsClear b, ?_, ?_⟩
  · rw [sampleMatches_bitsSet b rfl, welPoll, pollOf_mask_low, and_eq_mask_iff]
  · rw [sampleMatches_bitsClear b rfl, readyPoll, pollOf_mask_low, and_eq_zero_iff]

/-! ### The answers a poll admits (spec/42 R194) -/

/-- The samples of MATCH end with the first one that matches. -/
theorem matchedSamples_iff {p : PollDesc} {ss : List Byte} :
    matchedSamples p ss = true ↔
      ∃ pre s, ss = pre ++ [s] ∧ sampleMatches s p = true ∧ ∀ x ∈ pre, sampleMatches x p = false := by
  constructor
  · intro h
    induction ss using matchedSamples.induct with
    | case1 => cases h
    | case2 s => exact ⟨[], s, rfl, h, by simp⟩
    | case3 s ss hne ih =>
      obtain ⟨hs, hss⟩ : sampleMatches s p = false ∧ matchedSamples p ss = true := by
        simpa [matchedSamples] using h
      obtain ⟨pre, l, rfl, hl, hpre⟩ := ih hss
      exact ⟨s :: pre, l, rfl, hl, List.forall_mem_cons.2 ⟨hs, hpre⟩⟩
  · rintro ⟨pre, l, rfl, hl, hpre⟩
    induction pre with
    | nil => exact hl
    | cons s pre ih =>
      obtain ⟨hs, hpre⟩ := List.forall_mem_cons.1 hpre
      simp [matchedSamples, hs, ih hpre]

theorem noMatchSamples_iff {p : PollDesc} {ss : List Byte} :
    noMatchSamples p ss = true ↔ ∀ x ∈ ss, sampleMatches x p = false := by
  simp [noMatchSamples]

/-- How a request goes on reads the outcome of an answer and its bytes, nothing else. -/
theorem State.after_congr_answer {a b : Answer} (hg : a.good = b.good) (hb : a.bytes = b.bytes) (s : State) (p : Pos) :
    s.after a p = s.after b p := by
  cases p <;> simp only [State.after, hg, hb]

/-- Settles O9: an auto-poll admits MATCH and NOMATCH only, and the samples of either are no bytes the request receives. -/
theorem pollAnswersAdmitted : Obligations.PollAnswersAdmitted := by
  intro d p c a
  refine ⟨?_, fun s q xs ys => ⟨s.after_congr_answer rfl rfl q, s.after_congr_answer rfl rfl q⟩⟩
  cases a with
  | matched ss => simp [admits, matchedSamples_iff]
  | noMatch ss => simp [admits, noMatchSamples_iff]
  | ok | fail | data _ => simp [admits]

/-! ### No silent success (spec/42 R198) -/

/-- Only the transport's answer ends an outstanding call. -/
theorem Move.answers_of_ended_call {s t : State} {c : Call} (hc : s.call = some c) (ht : t.call = none) (h : Move s t) :
    ∃ p a rest, s.seq = .running p ∧ s.transport = a :: rest ∧ admits c a = true ∧
      t = State.answered p a { s with transport := rest } := by
  cases h with
  | answer p c' a rest hs hc' hr ha =>
    cases hc.symm.trans hc'
    exact ⟨p, a, rest, hs, hr, ha, rfl⟩
  | issue p i d _ hn _ _ => cases hn.symm.trans hc
  | perform p _ hn _ => cases hn.symm.trans hc
  | stay | fault _ _ | accept _ _ _ _ _ _ | illegal _ _ | arg _ _ | observe _ _ _ | store _ _ _ _ => cases hc.symm.trans ht

/-- No failing call ends a request with OK (spec/60 R302). -/
theorem failureCode_ne_ok (p : Pos) : failureCode p ≠ .ok := by
  unfold failureCode
  split <;> decide

/-- After an auto-poll the program goes on, or comes to `finish(OK)`, on a successful answer only (spec/60 R302). -/
theorem State.good_of_after_poll {s : State} {p : Pos} {d : CmdDesc} {q : PollDesc} {c : PollClass} {a : Answer}
    (hat : s.callAt p = some (.autoPoll d q c)) (hok : ∀ i e, s.after a p = .finish i e → e = .ok) : a.good = true := by
  have hread : p ≠ .readData := by rintro rfl; cases hat
  by_contra hg
  exact failureCode_ne_ok p (hok _ _ (State.after_failed hat (Bool.eq_false_of_not_eq_true hg) hread))

/-- Settles O31: the step is the answer to the poll, a successful one, so MATCH, and the last sample of MATCH matches. -/
theorem noSilentSuccess : Obligations.NoSilentSuccess := by
  rintro s t p d q c ts hts hs hc hat h hended ⟨r, hr, hok⟩
  obtain ⟨ts', ⟨hturn, -⟩ | ⟨-, -, hm⟩⟩ := step_move h
  · simp [State.takeTurn, hts] at hturn
  · obtain ⟨p', a, rest, hp', htr, ha, rfl⟩ := Move.answers_of_ended_call (s := { s with turns := ts' }) hc hended hm
    cases hs.symm.trans hp'
    cases hr
    have hg : a.good = true :=
      State.good_of_after_poll hat fun i e hf => hok i e ((State.after_congr rfl rfl a p).trans hf)
    obtain ⟨ss, rfl, hss⟩ := admits_autoPoll_good ha hg
    obtain ⟨pre, b, rfl, hb, -⟩ := matchedSamples_iff.1 hss
    exact ⟨pre, b, rest, htr, hb⟩

end Sys2Proof.Machine

/-! ## O13: memory-mapped mode (spec/43 R231) -/

namespace Sys2Proof.Machine

/-- In MM mode a request other than GET_GEOMETRY stops at step 3 of R320. -/
theorem exec_request_mapped {s : State} {i : Instr} (hport : i.port = .req) (hi : i ≠ .getGeometry) (hf : ∀ r, s.seq ≠ .faulted r)
    (hb : s.stat.busy = false) (hm : s.stat.mmap = true) : exec i s = s.raise .reqInMemoryMapped := by
  rw [exec_request hport, beq_false_of_ne hi]
  exact State.present_mm hf hb hm

/-- GET_GEOMETRY is accepted in either mode (spec/46 R295). -/
theorem exec_getGeometry {s : State} (hf : ∀ r, s.seq ≠ .faulted r) (hb : s.stat.busy = false) :
    exec .getGeometry s = .next (s.accept .getGeometry (startOf .getGeometry)) := by
  rw [exec_request rfl]
  exact State.present_ok hf hb (.inr rfl) none

/-- An illegal word written to REQ while no request runs completes at once (spec/60 R321). -/
theorem State.hostReqWrite_illegal {s : State} {w : Word} {e : Reject} (hb : s.stat.busy = false) (hd : decodeRequest w = .error e) :
    s.hostReqWrite w = .next s.illegalWord := by
  simp only [State.hostReqWrite, hb, hd, Bool.false_eq_true, if_false]

/-- In MM mode no frame is due: a running request is at its `finish`, where no frame is issued. -/
theorem State.frameDue_mapped {s : State} (hi : s.controlInv = true) (hm : s.stat.mmap = true) : s.frameDue = none := by
  refine Option.eq_none_iff_forall_ne_some.2 fun i hdue => ?_
  obtain ⟨p, hs, -, hp⟩ := State.frameDue_eq_some.1 hdue
  obtain ⟨j, c, rfl⟩ := State.controlInv_mapped hi hs hm
  cases hp

/-- Settles O13: step 3 of R320 for each word, and a frame answers a next state only where it is due. -/
theorem onlyGeometryInMemoryMappedMode : Obligations.OnlyGeometryInMemoryMappedMode := by
  intro s hf hm
  refine ⟨fun hb => ⟨exec_getGeometry hf hb, fun i hport hi => exec_request_mapped hport hi hf hb hm, fun w hd => ?_⟩,
    fun hinv i t hport h => ?_⟩
  · exact State.hostReqWrite_illegal hb hd
  · cases (exec_frame_next hport h).1.symm.trans (State.frameDue_mapped hinv hm)

end Sys2Proof.Machine

/-! ## O33: INIT up to its first failing call (spec/43 R212 to R214) -/

namespace Sys2Proof.Machine

/-! ### A call and its answer, at any position -/

/-- By default the sequencer places the call of its position; beyond the call and the trace it writes the outbound registers only (spec/10 R50, R51). -/
theorem step_places_call {s : State} {p : Pos} {c : Call} (ht : s.turns = []) (hs : s.seq = .running p) (hc : s.call = none)
    (hat : s.callAt p = some c) :
    ∃ d q k, step s = .next
      { s with cmdDesc := d, pollDesc := q, pollClass := k, call := some c, trace := s.trace ++ [.call c] } := by
  cases hi : s.frameAt p with
  | some i =>
    rw [State.callAt_frame hi] at hat
    obtain ⟨d, hd, rfl⟩ := Option.map_eq_some_iff.1 hat
    exact ⟨_, _, _, step_issue ht hs hc hi hd⟩
  | none =>
    rw [step_perform ht hs hc hi]
    cases p with
    | gateWel _ | initRstenReady | initRstmemReady | initEn4bReady | enter4bReady | mapCfg | readData | writeData _ | writeReady
    | eraseReady | chipReady | statusData => cases hat; exact ⟨_, _, _, rfl⟩
    | gateWren _ | initRsten | initRstmem | initEn4b | enter4bEn4b | readCmd | writeCmd | eraseCmd | chipCmd | statusCmd => cases hi
    | _ => cases hat

/-- The call of a position and its answer. -/
theorem run_call {s : State} {p : Pos} {c : Call} {a : Answer} {rest : List Answer} (ht : s.turns = []) (hs : s.seq = .running p)
    (hc : s.call = none) (hat : s.callAt p = some c) (hr : s.transport = a :: rest) (ha : admits c a = true) :
    ∃ d q k, Host.Core.run Sys2Proof.core 2 s = .next
      { s with
        seq := .running (s.after a p), cmdDesc := d, pollDesc := q, pollClass := k, transport := rest
        trace := s.trace ++ exchange [(c, a)] } := by
  obtain ⟨d, q, k, hplace⟩ := step_places_call ht hs hc hat
  refine ⟨d, q, k, run_via 1 hplace (run_via 0 (step_answered ht hs rfl hr ha (State.after_congr (s := s) rfl rfl a p)) ?_)⟩
  rw [run_zero]
  simp only [exchange, List.append_assoc, List.cons_append, List.nil_append, ← hc]

/-! ### INIT's calls by number (spec/43 R212) -/

/-- The position of INIT's call number `k`, counted from 0; the last is 7. -/
def initPos : Nat → Pos
  | 0 => .gateWren .init
  | 1 => .gateWel .init
  | 2 => .initRsten
  | 3 => .initRstenReady
  | 4 => .initRstmem
  | 5 => .initRstmemReady
  | 6 => .initEn4b
  | _ => .initEn4bReady

/-- INIT's call number `k`, counted from 0; the last is 7. -/
def initCall (p : Params) : Nat → Call
  | 0 => plainCall p.cmdWren
  | 1 => welCall p
  | 2 => plainCall p.cmdRsten
  | 3 => readyCall p .reset
  | 4 => plainCall p.cmdRstmem
  | 5 => readyCall p .reset
  | 6 => plainCall p.cmdEn4b
  | _ => readyCall p .mode4b

/-- The number of steps from acceptance to call number `k`: each call takes two, and `STAT.ADDR4 <- 0` after call 5 takes one. -/
def initSteps (k : Nat) : Nat := 2 * k + if k < 6 then 0 else 1

theorem State.callAt_initPos (s : State) (k : Nat) : s.callAt (initPos k) = some (initCall s.cfg k) := by
  match k with
  | 0 | 1 | 2 | 3 | 4 | 5 | 6 | _ + 7 => rfl

/-- A failing answer to any call of INIT leads to `finish(NOT_SUPPORTED)` (spec/43 R213). -/
theorem State.after_initPos_failed (s : State) {a : Answer} (k : Nat) (ha : a.good = false) :
    s.after a (initPos k) = .finish .init .notSupported := by
  have hp : initPos k ≠ .readData ∧ (initPos k).request = .init ∧ failureCode (initPos k) = .notSupported := by
    unfold initPos
    split <;> exact ⟨by decide, rfl, rfl⟩
  obtain ⟨hread, hrequest, hcode⟩ := hp
  rw [State.after_failed (s.callAt_initPos k) ha hread, hrequest, hcode]

/-- A successful answer to a call of INIT leads to the next call, after call 5 to the assignment before it. -/
theorem State.after_initPos_good (s : State) {a : Answer} {k : Nat} (hk : k < 7) (ha : a.good = true) :
    s.after a (initPos k) = if k = 5 then .initClear else initPos (k + 1) := by
  match k, hk with
  | 0, _ => simp only [initPos, State.after, afterGateWren, ha]; rfl
  | 1, _ => simp only [initPos, State.after, afterGateWel, ha]; rfl
  | 2, _ | 3, _ | 4, _ | 5, _ | 6, _ => simp only [initPos, State.after, orFinish, ha]; rfl

/-! ### INIT on its way -/

/-- `s` is INIT, presented in `s₀`, before its call number `k`: its first `k` calls are answered, and ADDR4 is 0 from call 6 on (spec/43 R212, R214). -/
structure InitAt (s₀ : State) (k : Nat) (s : State) : Prop where
  turns : s.turns = []
  seq : s.seq = .running (initPos k)
  call : s.call = none
  cfg : s.cfg = s₀.cfg
  stat : s.stat = { s₀.stat.accepted with addr4 := if k < 6 then s₀.stat.addr4 else false }
  bus : (busEvents s.trace).length = (busEvents s₀.trace).length + 2 * k

/-- A call and its answer are two events of the bus. -/
theorem busEvents_length_exchange (es : List Event) (c : Call) (a : Answer) :
    (busEvents (es ++ exchange [(c, a)])).length = (busEvents es).length + 2 := by
  rw [busEvents_append, busEvents_exchange, List.length_append, exchange_length]
  rfl

/-- Acceptance brings INIT to its first call. -/
theorem InitAt.of_accept {s : State} (rest : List HostOp) (ht : s.turns = []) (hc : s.call = none) :
    InitAt s 0 (State.accept .init (startOf .init) { s with host := rest }) :=
  ⟨ht, rfl, hc, rfl, rfl, rfl⟩

/-- A successful call brings INIT to its next call. -/
theorem InitAt.next {s₀ s : State} {k : Nat} {a : Answer} {rest : List Answer} (h : InitAt s₀ k s) (hk : k < 7)
    (hr : s.transport = a :: rest) (ha : admits (initCall s₀.cfg k) a = true) (hg : a.good = true) :
    ∃ t, Host.Core.run Sys2Proof.core (if k = 5 then 3 else 2) s = .next t ∧ InitAt s₀ (k + 1) t ∧ t.transport = rest := by
  obtain ⟨ht, hs, hc, hcfg, hstat, hbus⟩ := h
  rw [← hcfg] at ha
  obtain ⟨d, q, c, hrun⟩ := run_call ht hs hc (s.callAt_initPos k) hr ha
  rw [s.after_initPos_good hk hg] at hrun
  have hlen := (busEvents_length_exchange s.trace (initCall s.cfg k) a).trans (congrArg (· + 2) hbus)
  by_cases h5 : k = 5
  · subst h5
    exact ⟨_, run_then 2 1 hrun (run_via 0 (step_perform ht rfl hc rfl) (run_zero _)),
      ⟨ht, rfl, hc, hcfg, congrArg (fun t : Stat => { t with addr4 := false }) hstat, hlen⟩, rfl⟩
  · rw [if_neg h5] at hrun ⊢
    have h6 : k + 1 < 6 ↔ k < 6 := by omega
    exact ⟨_, hrun, ⟨ht, rfl, hc, hcfg, by simp only [h6, hstat], hlen⟩, rfl⟩

/-- A failing call ends INIT with NOT_SUPPORTED. -/
theorem InitAt.fails {s₀ s : State} {k : Nat} {a : Answer} {rest : List Answer} (h : InitAt s₀ k s)
    (hr : s.transport = a :: rest) (ha : admits (initCall s₀.cfg k) a = true) (hg : a.good = false) :
    ∃ t, Host.Core.run Sys2Proof.core 3 s = .next t ∧ t.seq = .idle ∧ t.stat = s.stat.finished .notSupported ∧ t.transport = rest ∧
      (busEvents t.trace).length = (busEvents s₀.trace).length + 2 * (k + 1) := by
  obtain ⟨ht, hs, hc, hcfg, -, hbus⟩ := h
  rw [← hcfg] at ha
  obtain ⟨d, q, c, hrun⟩ := run_call ht hs hc (s.callAt_initPos k) hr ha
  rw [s.after_initPos_failed k hg] at hrun
  refine ⟨_, run_then 2 1 hrun (run_via 0 (step_finish ht rfl hc) (run_zero _)), rfl, rfl, rfl, ?_⟩
  exact (busEvents_length_exchange s.trace (initCall s.cfg k) a).trans (congrArg (· + 2) hbus)

/-- Successful answers to INIT's first calls bring it to the call after them. -/
theorem InitAt.reached {s₀ s : State} (h : InitAt s₀ 0 s) (as more : List Answer) (hlen : as.length < 8)
    (hr : s.transport = as ++ more)
    (has : ∀ i a, as[i]? = some a → admits (initCall s₀.cfg i) a = true ∧ a.good = true) :
    ∃ t, Host.Core.run Sys2Proof.core (initSteps as.length) s = .next t ∧ InitAt s₀ as.length t ∧ t.transport = more := by
  induction as using List.reverseRecOn generalizing more with
  | nil => exact ⟨s, run_zero s, h, hr⟩
  | append_singleton as a ih =>
    rw [List.length_append, List.length_singleton] at hlen ⊢
    obtain ⟨t, hrun, hat, ht⟩ := ih (a :: more) (by omega) (by rw [hr, List.append_assoc]; rfl) fun i b hi =>
      has i b (by rw [List.getElem?_append_left (List.getElem?_eq_some_iff.1 hi).1, hi])
    obtain ⟨ha, hg⟩ := has as.length a List.getElem?_concat_length
    obtain ⟨u, hnext, hu⟩ := hat.next (by omega) ht ha hg
    have hsteps : initSteps (as.length + 1) = initSteps as.length + if as.length = 5 then 3 else 2 := by
      unfold initSteps
      split_ifs <;> omega
    exact ⟨u, hsteps ▸ run_then _ _ hrun hnext, hu⟩

/-- Answers to INIT's eight calls, one to each frame and one to each poll: it is enough that each kind of call admits its own. -/
theorem initCall_admits {p : Params} {f m m1 m2 m3 : Answer} {g : Bool} (hf : ∀ code, admits (plainCall code) f = true ∧ f.good = g)
    (hm : admits (welCall p) m = true ∧ m.good = g) (h1 : ∀ c, admits (readyCall p c) m1 = true ∧ m1.good = g)
    (h2 : ∀ c, admits (readyCall p c) m2 = true ∧ m2.good = g) (h3 : ∀ c, admits (readyCall p c) m3 = true ∧ m3.good = g) :
    ∀ i a, [f, m, f, m1, f, m2, f, m3][i]? = some a → admits (initCall p i) a = true ∧ a.good = g := by
  intro i a hi
  match i, hi with
  | 0, hi | 2, hi | 4, hi | 6, hi => cases hi; exact hf _
  | 1, hi => cases hi; exact hm
  | 3, hi => cases hi; exact h1 _
  | 5, hi => cases hi; exact h2 _
  | 7, hi => cases hi; exact h3 _

/-- Settles O33: the successful calls bring INIT to the failing one, which ends it. -/
theorem initFailureAtEachCall : Obligations.InitFailureAtEachCall := by
  intro s rest good bad more k w b1 b2 b3 x y1 y2 y3 hk hgood hbad hw hb hx hy h
  simp only [List.forall_mem_cons] at hb hy
  obtain ⟨hb1, hb2, hb3, -⟩ := hb
  obtain ⟨hy1, hy2, hy3, -⟩ := hy
  have hgoods : ∀ i a, good[i]? = some a → admits (initCall s.cfg i) a = true ∧ a.good = true := hgood ▸
    initCall_admits (fun _ => ⟨rfl, rfl⟩) ⟨hw, rfl⟩ (fun _ => ⟨hb1, rfl⟩) (fun _ => ⟨hb2, rfl⟩) fun _ => ⟨hb3, rfl⟩
  have hbads : ∀ i a, bad[i]? = some a → admits (initCall s.cfg i) a = true ∧ a.good = false := hbad ▸
    initCall_admits (fun _ => ⟨rfl, rfl⟩) ⟨hx, rfl⟩ (fun _ => ⟨hy1, rfl⟩) (fun _ => ⟨hy2, rfl⟩) fun _ => ⟨hy3, rfl⟩
  have hlen : (good.take k).length = k := by rw [List.length_take, hgood]; exact Nat.min_eq_left hk.le
  have hkbad : k < bad.length := by rw [hbad]; exact hk
  obtain ⟨ht, -, hr, -, hc, -, hm⟩ := id h
  rw [List.take_one_drop_eq_of_lt_length hkbad, List.append_assoc] at hr
  obtain ⟨t, hrun, hat, htr⟩ := (InitAt.of_accept rest ht hc).reached (good.take k) _ (by omega) hr fun i a hi =>
    hgoods i a (Option.ite_none_right_eq_some.1 (List.getElem?_take.symm.trans hi)).2
  rw [hlen] at hrun hat
  obtain ⟨ha, hg⟩ := hbads k _ (List.getElem?_eq_getElem hkbad)
  obtain ⟨u, hend, hseq, hstat, hutr, hbus⟩ := hat.fails htr ha hg
  have hsteps : (2 * k + if k < 6 then 4 else 5) = initSteps k + 3 + 1 := by
    unfold initSteps
    split <;> omega
  refine ⟨u, hsteps ▸ run_via _ (step_accept h rfl rfl) (run_then _ _ hrun hend), hseq, ?_, hutr, hbus⟩
  rw [hstat, hat.stat]
  exact Stat.eq_of_unmapped hm

end Sys2Proof.Machine

/-! ## O46, O52: the operands of a running request (spec/44 R250 to R254, spec/45 R272, R273, spec/60 R320, R332) -/

namespace Sys2Proof.Machine

/-! ### The operand invariant at a position -/

/-- What the operand invariant asks when the running request is at position `p`. -/
def State.operandsAt (s : State) (p : Pos) : Bool := (s.goto p).operandsOk

/-- While a request runs the operand invariant is that of its position. -/
theorem State.operandsOk_running {s : State} {p : Pos} (hs : s.seq = .running p) : s.operandsOk = s.operandsAt p :=
  State.operandsOk_congr (s := s.goto p) rfl rfl rfl rfl rfl hs

/-- A move that changes nothing the operand invariant reads keeps it. -/
theorem State.operandsOk_kept {s t : State} (ho : s.operandsOk = true) (hcfg : t.cfg = s.cfg) (hlatch : t.latch = s.latch)
    (hcursor : t.cursor = s.cursor) (haddr4 : t.stat.addr4 = s.stat.addr4) (hmem : t.mem = s.mem) (hseq : t.seq = s.seq) :
    t.operandsOk = true := (State.operandsOk_congr hcfg hlatch hcursor haddr4 hmem hseq).trans ho

/-- Where no request runs nothing is asked of the operands. -/
theorem State.operandsOk_of_not_running {s : State} (hs : ∀ p, s.seq ≠ .running p) : s.operandsOk = true := by
  unfold State.operandsOk
  cases h : s.seq with
  | running p => exact absurd h (hs p)
  | idle | faulted _ => rfl

/-- The requests whose operands step 4 of R320 checks. -/
def Instr.hasOperands : Instr → Bool
  | .read | .write | .erase => true
  | _ => false

/-- A position of a request without operands asks nothing. -/
theorem State.operandsAt_of_no_operands (s : State) {p : Pos} (h : Instr.hasOperands p.request = false) : s.operandsAt p = true := by
  cases p with
  | gateWren u | gateWel u =>
    cases u with
    | init | chip => rfl
    | write | erase => cases h
  | readCmd | readData | readStore _ _ | readAny _ | writeCur | writeEnda | writeChunk | writeOff | writeCmd | writeRead _ | writeData _
  | writeReady | writeNextCur | writeNextOff | writeNextChunk | eraseCur | eraseEnda | eraseCmd | eraseReady | eraseNext => cases h
  | _ => rfl

/-- After a call only the position its success leads to asks anything. -/
theorem State.operandsAt_orFinish {s : State} {good : Bool} {q : Pos} {i : Instr} {c : ResultCode} (h : good = true → s.operandsAt q = true) :
    s.operandsAt (orFinish good q i c) = true := by
  unfold orFinish
  split
  · next hg => exact h hg
  · rfl

/-! ### What acceptance checked -/

theorem State.transferOk_iff {s : State} :
    s.transferOk = true ↔
      s.latch.a0.toNat < s.cfg.flashSize ∧ s.latch.a0.toNat + s.latch.a1.toNat ≤ s.cfg.flashSize ∧
      (s.stat.addr4 = false → s.latch.a0.toNat < 2 ^ 24 ∧ s.latch.a0.toNat + s.latch.a1.toNat ≤ 2 ^ 24) ∧
      s.latch.a2.toNat + s.latch.a1.toNat ≤ 2 ^ 32 ∧ s.cfg.bufferOk s.latch.a2.toNat s.latch.a1.toNat = true := by
  cases h : s.stat.addr4 <;> simp [State.transferOk, h, and_assoc]

theorem State.eraseOk_iff {s : State} :
    s.eraseOk = true ↔
      s.latch.a0.toNat ≤ s.latch.a1.toNat ∧ s.latch.a1.toNat < s.cfg.flashSize ∧
      (s.stat.addr4 = false → s.latch.a1.toNat < 2 ^ 24) := by
  cases h : s.stat.addr4 <;> simp [State.eraseOk, h, and_assoc]

theorem State.writeOk_iff {s : State} {c : Cursor} :
    s.writeOk c = true ↔ s.transferOk = true ∧ c.chunkOk s.cfg.pageSize s.latch = true := by
  simp only [State.writeOk, Bool.and_eq_true]

/-- Acceptance latches what step 4 of R320 checked. -/
theorem State.operandsAt_accept {s : State} {i : Instr} (h : s.operandFault i = none) :
    (s.accept i (startOf i)).operandsAt (startOf i) = true := by
  have transfer (h : s.transferFault = none) (i : Instr) (p : Pos) : (s.accept i p).transferOk = true := by
    obtain ⟨h0, h1, h24, h32, hbuf⟩ := State.transferFault_none.1 h
    exact State.transferOk_iff.2 ⟨h0, h1, h24, h32, (Params.bufferOk_iff ..).2 hbuf⟩
  cases i with
  | read | write => exact transfer h _ _
  | erase => exact State.eraseOk_iff.2 (State.eraseFault_none.1 h)
  | _ => exact State.operandsAt_of_no_operands _ rfl

/-! ### READ (spec/44 R241) -/

/-- READ's loop over the bytes received: what is stored and what is still to store make up the range. -/
theorem State.operandsAt_readStoreFrom {s : State} {i : Nat} {rest : List Byte} (ht : s.transferOk = true)
    (h : i + rest.length = s.latch.a1.toNat) : s.operandsAt (readStoreFrom i rest) = true := by
  cases rest with
  | nil => rfl
  | cons b bs => exact Bool.and_eq_true_iff.2 ⟨ht, beq_iff_eq.2 h⟩

/-- READ's loop of free bytes stays inside the range. -/
theorem State.operandsAt_readAnyFrom {s : State} (i : Nat) (ht : s.transferOk = true) : s.operandsAt (s.readAnyFrom i) = true := by
  unfold State.readAnyFrom
  split
  · next h => exact Bool.and_eq_true_iff.2 ⟨ht, decide_eq_true h⟩
  · rfl

/-- `MemWrite(L_A2 + i, 1, bytes[i])`. -/
theorem State.operandsOk_storeByte {s : State} {i : Nat} {rest : List Byte} (h : s.operandsAt (.readStore i rest) = true) :
    (s.storeByte i rest).operandsOk = true := by
  obtain ⟨ht, hlen⟩ := Bool.and_eq_true_iff.1 h
  cases rest with
  | nil => rfl
  | cons b bs =>
    refine State.operandsAt_readStoreFrom (s := s.memWrite _ b) ht (Eq.trans ?_ (beq_iff_eq.1 hlen))
    rw [List.length_cons]
    omega

/-! ### WRITE (spec/44 R250 to R252) -/

/-- What is asked of the bytes read does not depend on the position. -/
@[simp] theorem State.goto_sourceHas (s : State) (p : Pos) (got : List Byte) : (s.goto p).sourceHas got = s.sourceHas got := by
  unfold State.sourceHas
  rw [State.bytesAt_congr (s := s.goto p) (t := s) rfl]
  rfl

/-- What is asked in WRITE's source loop. -/
theorem State.operandsAt_writeRead_iff {s : State} {got : List Byte} :
    s.operandsAt (.writeRead got) = true ↔ s.writeOk s.cursor = true ∧ got.length < s.cursor.chunk.toNat ∧ s.sourceHas got = true := by
  change (s.writeOk s.cursor && decide (got.length < s.cursor.chunk.toNat) && (s.goto _).sourceHas got) = true ↔ _
  rw [State.goto_sourceHas, Bool.and_eq_true, Bool.and_eq_true, decide_eq_true_iff, and_assoc]

/-- What is asked at TxData. -/
theorem State.operandsAt_writeData_iff {s : State} {buf : List Byte} :
    s.operandsAt (.writeData buf) = true ↔ s.writeOk s.cursor = true ∧ buf.length = s.cursor.chunk.toNat ∧ s.sourceHas buf = true := by
  change (s.writeOk s.cursor && buf.length == s.cursor.chunk.toNat && (s.goto _).sourceHas buf) = true ↔ _
  rw [State.goto_sourceHas, Bool.and_eq_true, Bool.and_eq_true, beq_iff_eq, and_assoc]

/-- WRITE's inner loop test. -/
theorem State.operandsAt_writeReadFrom {s : State} {got : List Byte} (hw : s.writeOk s.cursor = true)
    (hlen : got.length ≤ s.cursor.chunk.toNat) (hsrc : s.sourceHas got = true) : s.operandsAt (s.writeReadFrom got) = true := by
  unfold State.writeReadFrom
  split
  · next h => exact State.operandsAt_writeRead_iff.2 ⟨hw, h, hsrc⟩
  · next h => exact State.operandsAt_writeData_iff.2 ⟨hw, by omega, hsrc⟩

/-- One more byte of the source. -/
theorem State.sourceHas_succ {s : State} {got : List Byte} (h : s.sourceHas got = true) :
    s.sourceHas (got ++ [s.memRead (s.sourceAddr got.length)]) = true := by
  rw [State.sourceHas, beq_iff_eq] at h ⊢
  rw [List.length_append, List.length_singleton, State.bytesAt_succ, ← h]
  rfl

/-- `buf[i] <- MemRead(L_A2 + OFF + i, 1)`. -/
theorem State.operandsOk_fetchByte {s : State} {got : List Byte} (h : s.operandsAt (.writeRead got) = true) :
    (s.fetchByte got).operandsOk = true := by
  obtain ⟨hw, hlen, hsrc⟩ := State.operandsAt_writeRead_iff.1 h
  have hnext := State.operandsAt_writeReadFrom (got := got ++ [s.memRead (s.sourceAddr got.length)]) hw
    (by rw [List.length_append]; exact hlen) (State.sourceHas_succ hsrc)
  exact State.operandsOk_kept (s := s.goto _) hnext rfl rfl rfl rfl rfl rfl

/-- The range of an accepted WRITE ends below 2^32, so that no cursor wraps. -/
theorem State.transferOk_no_wrap {s : State} (hv : s.cfg.valid = true) (ht : s.transferOk = true) :
    s.latch.a0.toNat + s.latch.a1.toNat < 2 ^ 32 := by
  obtain ⟨-, hend, -⟩ := State.transferOk_iff.1 ht
  obtain ⟨hsector, -, -, hflash⟩ := Params.valid_sizes hv
  omega

/-- What is asked before `OFF <- 0`: with it the cursors are those R250 puts there ahead of the loop. -/
theorem State.operandsAt_writeOff_iff {s : State} :
    s.operandsAt .writeOff = true ↔ s.transferOk = true ∧
      ({ s.cursor with off := 0 } : Cursor) =
        ⟨s.latch.a0, s.latch.a0 + s.latch.a1, firstChunk s.cfg.pageSize s.latch.a0 s.latch.a1, 0⟩ := by
  change (s.transferOk && s.cursor.cur == s.latch.a0 && s.cursor.enda == s.latch.a0 + s.latch.a1
    && s.cursor.chunk == firstChunk s.cfg.pageSize s.latch.a0 s.latch.a1) = true ↔ _
  simp only [Bool.and_eq_true, beq_iff_eq, and_assoc, Cursor.mk.injEq, and_true]

/-- `OFF <- 0` brings the splitter into its loop state. -/
theorem State.operandsOk_writeOff {s : State} (hv : s.cfg.valid = true) (h : s.operandsAt .writeOff = true) :
    ((s.setOff 0).goto (.gateWren .write)).operandsOk = true := by
  obtain ⟨ht, hcursor⟩ := State.operandsAt_writeOff_iff.1 h
  refine State.writeOk_iff.2 ⟨ht, ?_⟩
  rw [State.goto_cursor, State.setOff_cursor, hcursor]
  exact Cursor.chunkOk_first (Params.valid_sizes hv).2.1 (State.transferOk_no_wrap hv ht)

/-- `CUR <- CUR + CHUNK`: the chunk it ends is the one the loop had. -/
theorem State.operandsOk_writeNextCur {s : State} (h : s.operandsAt .writeNextCur = true) :
    (s.perform .writeNextCur).operandsOk = true := by
  change s.writeOk { s.cursor with cur := s.cursor.cur + s.cursor.chunk - s.cursor.chunk } = true
  rw [BitVec.add_sub_cancel]
  exact h

/-- `OFF <- OFF + CHUNK`. -/
theorem State.operandsOk_writeNextOff {s : State} (h : s.operandsAt .writeNextOff = true) :
    (s.perform .writeNextOff).operandsOk = true := by
  change s.writeOk { s.cursor with cur := s.cursor.cur - s.cursor.chunk, off := s.cursor.off + s.cursor.chunk - s.cursor.chunk } = true
  rw [BitVec.add_sub_cancel]
  exact h

/-- `CHUNK <- min(P, ENDA - CUR)` and the loop test: the next chunk, or the end. -/
theorem State.operandsOk_writeNext {s : State} (hv : s.cfg.valid = true) (h : s.operandsAt .writeNextChunk = true) :
    s.writeNext.operandsOk = true := by
  obtain ⟨ht, hc⟩ := State.writeOk_iff.1 h
  unfold State.writeNext
  dsimp only
  unfold State.writeLoop
  split
  · next hl =>
    have hnext := Cursor.chunkOk_next (Params.valid_sizes hv).2.1 hc (by rw [BitVec.sub_add_cancel]; exact hl)
    simp only [BitVec.sub_add_cancel] at hnext
    exact State.writeOk_iff.2 ⟨ht, hnext⟩
  · rfl

/-! ### ERASE_SECTOR_RANGE (spec/45 R272, R273) -/

theorem State.operandsAt_eraseLoop {s : State} (h : s.eraseOk = true)
    (hc : s.cursor.cur.toNat ≤ s.cursor.enda.toNat → s.cursor.sectorOk s.cfg.sectorSize s.latch = true) :
    s.operandsAt s.eraseLoop = true := by
  unfold State.eraseLoop
  split
  · next hl => exact Bool.and_eq_true_iff.2 ⟨h, hc hl⟩
  · rfl

/-- `ENDA <- L_A1` brings the splitter into its loop state. -/
theorem State.operandsOk_eraseEnter {s : State} (h : s.operandsAt .eraseEnda = true) : s.eraseEnter.operandsOk = true := by
  obtain ⟨he, hcur⟩ := Bool.and_eq_true_iff.1 h
  have hcur : s.cursor.cur = BitVec.ofNat 32 (sectorBase s.cfg.sectorSize s.latch.a0.toNat) := beq_iff_eq.1 hcur
  refine State.operandsAt_eraseLoop (s := s.setEnda s.latch.a1) he fun _ => ?_
  rw [State.setEnda_cursor, hcur]
  exact Cursor.sectorOk_first (State.eraseOk_iff.1 he).1 s.cursor.chunk s.cursor.off

/-- `CUR <- CUR + S` and the loop test: the next sector, or the end. -/
theorem State.operandsOk_eraseAdvance {s : State} (hv : s.cfg.valid = true) (h : s.operandsAt .eraseNext = true) :
    s.eraseAdvance.operandsOk = true := by
  obtain ⟨he, hc⟩ := Bool.and_eq_true_iff.1 h
  obtain ⟨-, hend, -⟩ := State.eraseOk_iff.1 he
  obtain ⟨-, -, -, hflash⟩ := Params.valid_sizes hv
  have hwrap : s.latch.a1.toNat + s.cfg.sectorSize < 2 ^ 32 := Nat.lt_of_lt_of_le (Nat.add_lt_add_right hend _) hflash
  exact State.operandsAt_eraseLoop (s := s.setCur _) he fun hl => Cursor.sectorOk_next hwrap hc hl

/-! ### Every move keeps it -/

/-- A statement that is no IssueCmd. -/
theorem State.operandsOk_perform {s : State} {p : Pos} (hv : s.cfg.valid = true) (ho : s.operandsAt p = true) (hs : s.seq = .running p)
    (hf : s.frameAt p = none) : (s.perform p).operandsOk = true := by
  have other (h : Instr.hasOperands p.request = false) : (s.perform p).operandsOk = true := by
    rcases s.perform_goes hf with ⟨hq, -, -⟩ | ⟨-, ⟨q, hq, hreq, -⟩, -⟩ | ⟨i, c, rfl, ht⟩
    · rw [State.operandsOk_running (hq.trans hs)]
      exact State.operandsAt_of_no_operands _ h
    · rw [State.operandsOk_running hq]
      exact State.operandsAt_of_no_operands _ (hreq ▸ h)
    · rw [ht]
      rfl
  cases p with
  | gateWel _ | readData | writeData _ | writeReady | eraseReady =>
    exact State.operandsOk_kept ((State.operandsOk_running hs).trans ho) rfl rfl rfl rfl rfl rfl
  | readStore i rest => exact State.operandsOk_storeByte ho
  | readAny i => exact State.operandsAt_readAnyFrom (s := s.memWriteAny _) (i + 1) (Bool.and_eq_true_iff.1 ho).1
  | writeCur | writeEnda | writeChunk | eraseCur => exact Bool.and_eq_true_iff.2 ⟨ho, beq_self_eq_true _⟩
  | writeOff => exact State.operandsOk_writeOff hv ho
  | writeRead got => exact State.operandsOk_fetchByte ho
  | writeNextCur => exact State.operandsOk_writeNextCur ho
  | writeNextOff => exact State.operandsOk_writeNextOff ho
  | writeNextChunk => exact State.operandsOk_writeNext hv ho
  | eraseEnda => exact State.operandsOk_eraseEnter ho
  | eraseNext => exact State.operandsOk_eraseAdvance hv ho
  | finish i c => rfl
  | gateWren _ | readCmd | writeCmd | eraseCmd => cases hf
  | _ => exact other rfl

/-- The answer to RxData that succeeds has as many bytes as were asked for (spec/42 R191). -/
theorem admits_rxData_good {n : Nat} {a : Answer} (h : admits (.rxData n) a = true) (hg : a.good = true) : a.bytes.length = n := by
  cases a with
  | data bytes => exact beq_iff_eq.1 h
  | fail => cases hg
  | _ => cases h

/-- Where the program goes on after an answer. -/
theorem State.operandsAt_after {s : State} {p : Pos} {c : Call} {a : Answer} (ho : s.operandsAt p = true) (hat : s.callAt p = some c)
    (ha : admits c a = true) : s.operandsAt (s.after a p) = true := by
  have other (h : Instr.hasOperands p.request = false) : s.operandsAt (s.after a p) = true := by
    rcases s.after_goes a p with hp | ⟨hreq, -⟩
    · rwa [hp]
    · exact State.operandsAt_of_no_operands _ (hreq ▸ h)
  cases p with
  | gateWren u =>
    simp only [State.after, afterGateWren]
    split
    · cases u <;> exact ho
    · rfl
  | gateWel u =>
    simp only [State.after, afterGateWel]
    split
    · cases u <;> exact ho
    · rfl
  | readCmd | writeReady | eraseCmd | eraseReady => exact State.operandsAt_orFinish fun _ => ho
  | readData =>
    cases hat
    simp only [State.after]
    split
    · next hg => exact State.operandsAt_readStoreFrom ho ((Nat.zero_add _).trans (admits_rxData_good ha hg))
    · exact State.operandsAt_readAnyFrom 0 ho
  | writeCmd => exact State.operandsAt_orFinish fun _ => State.operandsAt_writeReadFrom ho (Nat.zero_le _) rfl
  | writeData buf => exact State.operandsAt_orFinish fun _ => (State.operandsAt_writeData_iff.1 ho).1
  | readStore _ _ | readAny _ | writeCur | writeEnda | writeChunk | writeOff | writeRead _ | writeNextCur | writeNextOff | writeNextChunk
  | eraseCur | eraseEnda | eraseNext | finish _ _ => cases hat
  | _ => exact other rfl

/-- Of host memory the operand invariant reads the source bytes of a WRITE's chunk alone. -/
theorem State.operandsAt_mem {s : State} {p : Pos} (m : Memory)
    (hsrc : ∀ got : List Byte, s.writeOk s.cursor = true → got.length ≤ s.cursor.chunk.toNat → s.sourceHas got = true →
      p.request = .write → State.sourceHas { s with mem := m } got = true)
    (ho : s.operandsAt p = true) : State.operandsAt { s with mem := m } p = true := by
  cases p with
  | writeRead got =>
    obtain ⟨hw, hlen, hgot⟩ := State.operandsAt_writeRead_iff.1 ho
    exact State.operandsAt_writeRead_iff.2 ⟨hw, hlen, hsrc got hw (Nat.le_of_lt hlen) hgot rfl⟩
  | writeData buf =>
    obtain ⟨hw, hlen, hbuf⟩ := State.operandsAt_writeData_iff.1 ho
    exact State.operandsAt_writeData_iff.2 ⟨hw, hlen, hsrc buf hw (Nat.le_of_eq hlen) hbuf rfl⟩
  | gateWren u | gateWel u => cases u <;> exact ho
  | _ => exact ho

/-- The source of a chunk lies in the buffer, so a byte written outside the buffer leaves it (spec/44 R252, spec/60 R332). -/
theorem State.sourceHas_store {s : State} {a : Word} (b : Byte) {got : List Byte} (hw : s.writeOk s.cursor = true)
    (hlen : got.length ≤ s.cursor.chunk.toNat)
    (ha : ¬ (s.latch.a2.toNat ≤ a.toNat ∧ a.toNat < s.latch.a2.toNat + s.latch.a1.toNat)) (h : s.sourceHas got = true) :
    State.sourceHas { s with mem := s.mem.write a.toNat b } got = true := by
  obtain ⟨ht, hc⟩ := State.writeOk_iff.1 hw
  obtain ⟨-, -, -, h32, -⟩ := State.transferOk_iff.1 ht
  obtain ⟨-, hstart, hend, hoff, -⟩ := Cursor.chunkOk_iff.1 hc
  rw [State.sourceHas, beq_iff_eq] at h ⊢
  refine h.trans (State.bytesAt_eq _ _ fun i hi => ?_)
  refine (Memory.read_write_other s.mem b ?_).symm
  rw [BitVec.toNat_add, BitVec.toNat_add, BitVec.toNat_ofNat]
  omega

/-- A store of the host that it has a move for leaves what is asked of the running request. -/
theorem State.operandsOk_store {s : State} {a : Word} (b : Byte) (hi : s.controlInv = true) (hb : s.bufferBusy a = false)
    (ho : s.operandsOk = true) : State.operandsOk { s with mem := s.mem.write a.toNat b } = true := by
  by_cases hr : ∃ p, s.seq = .running p
  · obtain ⟨p, hs⟩ := hr
    rw [State.operandsOk_running hs] at ho
    refine (State.operandsOk_running (s := { s with mem := s.mem.write a.toNat b }) hs).trans ?_
    refine State.operandsAt_mem _ (fun got hw hlen hgot hreq => State.sourceHas_store b hw hlen (fun ha => ?_) hgot) ho
    obtain ⟨-, -, hop, -⟩ := State.controlInv_running hi hs
    have hop : s.latch.op = 2 ∨ s.latch.op = 3 := .inr (by rw [hop, hreq]; rfl)
    cases hb.symm.trans (State.bufferBusy_iff.2 ⟨⟨p, hs⟩, hop, ha⟩)
  · exact State.operandsOk_of_not_running fun p hs => hr ⟨p, hs⟩

/-- Every move of an agent keeps what is asked of the operands. -/
theorem Move.keeps_operandsOk {s t : State} (hi : s.controlInv = true) (ha : s.callAgrees = true) (hv : s.cfg.valid = true)
    (ho : s.operandsOk = true) (h : Move s t) : t.operandsOk = true := by
  cases h with
  | perform p hs _ hf =>
    rw [State.operandsOk_running hs] at ho
    exact State.operandsOk_perform hv ho hs hf
  | answer p c a rest hs hc _ had =>
    rw [State.operandsOk_running hs] at ho
    have hafter := State.operandsAt_after ho (State.callAgrees_running ha hs hc) had
    exact State.operandsOk_kept (s := s.goto _) hafter rfl rfl rfl rfl rfl (congrArg Seq.running (State.after_congr rfl rfl a p))
  | accept i host _ _ _ hf => exact State.operandsAt_accept (s := { s with host := host }) (by rwa [State.operandFault_host])
  | store a b host hb =>
    exact State.operandsOk_kept (State.operandsOk_store b hi hb ho) rfl rfl rfl rfl rfl rfl
  | fault r host => rfl
  | stay | issue _ _ _ _ _ _ _ | illegal _ _ | arg _ _ | observe _ _ _ =>
    exact State.operandsOk_kept ho rfl rfl rfl rfl rfl rfl

/-- Settles O46: a step is block reset, which leaves no request running, or a move of an agent, and each move keeps it. -/
theorem operandInvKept : Obligations.OperandInvKept := by
  intro s t hi ha ho h
  obtain ⟨hv, ho⟩ := Bool.and_eq_true_iff.1 ho
  refine Bool.and_eq_true_iff.2 ⟨(modeChangesOnlyByModeRequests s t h).1 ▸ hv, ?_⟩
  obtain ⟨ts, ⟨-, rfl⟩ | ⟨-, -, hm⟩⟩ := step_move h
  · rfl
  · exact Move.keeps_operandsOk (s := { s with turns := ts }) hi ha hv (State.operandsOk_kept ho rfl rfl rfl rfl rfl rfl) hm

end Sys2Proof.Machine

/-! ### The frame that is due (spec/40 R153, spec/44 R254, spec/45 R273) -/

namespace Sys2Proof.Machine

/-- a[23:0] loses nothing of an address that 3-byte mode can encode (spec/40 R153). -/
theorem low24_toNat {a : Word} (h : a.toNat < 2 ^ 24) : (low24 a).toNat = a.toNat := by
  rw [low24, BitVec.toNat_setWidth, Nat.mod_eq_of_lt h]

/-- Bytes that do not pass the end of the page of the first one lie in one page. -/
theorem inOnePage_of_le {P a n : Nat} (hP : 0 < P) (h : n ≤ P - a % P) : inOnePage P a n = true := by
  rw [inOnePage, Bool.or_eq_true, beq_iff_eq, beq_iff_eq]
  rcases Nat.eq_zero_or_pos n with hn | hn
  · exact .inl hn
  · refine .inr ?_
    have hmod := Nat.mod_lt a hP
    have hdiv := Nat.div_add_mod a P
    have hlast : a + n - 1 = P * (a / P) + (a % P + n - 1) := by omega
    rw [pageOf, pageOf, hlast, Nat.mul_add_div hP, Nat.div_eq_of_lt (by omega : a % P + n - 1 < P), Nat.add_zero]

/-- READ's frame. -/
theorem State.quadReadFrame_wf {s : State} (h : s.transferOk = true) : (s.quadReadFrame s.latch.a0 s.latch.a1).wf s.cfg = true := by
  obtain ⟨h0, h1, h24, -⟩ := State.transferOk_iff.1 h
  cases h4 : s.stat.addr4 with
  | false =>
    obtain ⟨hlow, hend⟩ := h24 h4
    simpa [State.quadReadFrame_addr3 _ _ h4, Instr.wf, low24_toNat hlow, h0, h1] using hend
  | true => simp [State.quadReadFrame_addr4 _ _ h4, Instr.wf, h0, h1]

/-- A chunk of WRITE lies in the range acceptance checked, its start inside it even where the chunk is empty. -/
theorem State.chunk_in_range {s : State} (h : s.writeOk s.cursor = true) :
    s.cursor.cur.toNat < s.cfg.flashSize ∧ s.cursor.cur.toNat + s.cursor.chunk.toNat ≤ s.cfg.flashSize ∧
      (s.stat.addr4 = false → s.cursor.cur.toNat < 2 ^ 24) := by
  obtain ⟨ht, hc⟩ := State.writeOk_iff.1 h
  obtain ⟨h0, h1, h24, -⟩ := State.transferOk_iff.1 ht
  obtain ⟨-, hstart, hend, -, -, -, hempty⟩ := Cursor.chunkOk_iff.1 hc
  refine ⟨by omega, by omega, fun h4 => ?_⟩
  have := h24 h4
  omega

/-- WRITE's program frame. -/
theorem State.programFrame_wf {s : State} (hv : s.cfg.valid = true) (h : s.writeOk s.cursor = true) :
    (s.programFrame s.cursor.cur s.cursor.chunk).wf s.cfg = true := by
  obtain ⟨h0, h1, h24⟩ := State.chunk_in_range h
  obtain ⟨-, -, -, -, hchunk, -⟩ := Cursor.chunkOk_iff.1 (State.writeOk_iff.1 h).2
  have hpage := inOnePage_of_le (Params.valid_sizes hv).2.1 hchunk
  have hsize := hchunk.trans (Nat.sub_le _ _)
  cases h4 : s.stat.addr4 with
  | false => simp [State.programFrame_addr3 _ _ h4, Instr.wf, low24_toNat (h24 h4), h0, h1, hpage, hsize]
  | true => simp [State.programFrame_addr4 _ _ h4, Instr.wf, h0, h1, hpage, hsize]

/-- ERASE_SECTOR_RANGE's sector-erase frame. -/
theorem State.sectorFrame_wf {s : State} (he : s.eraseOk = true) (hc : s.cursor.sectorOk s.cfg.sectorSize s.latch = true) :
    (s.sectorFrame s.cursor.cur).wf s.cfg = true := by
  obtain ⟨-, h1, h24⟩ := State.eraseOk_iff.1 he
  obtain ⟨-, hbase, -, hcur⟩ := Cursor.sectorOk_iff.1 hc
  have h0 := Nat.lt_of_le_of_lt hcur h1
  cases h4 : s.stat.addr4 with
  | false => simp [State.sectorFrame_addr3 _ h4, Instr.wf, low24_toNat (Nat.lt_of_le_of_lt hcur (h24 h4)), h0, hbase]
  | true => simp [State.sectorFrame_addr4 _ h4, Instr.wf, h0, hbase]

/-- Settles O52: each frame with operands takes them from the range or the cursors that the operand invariant speaks of. -/
theorem framesAreWellFormed : Obligations.FramesAreWellFormed := by
  intro s i ho hdue
  obtain ⟨hv, ho⟩ := Bool.and_eq_true_iff.1 ho
  obtain ⟨p, hs, -, hi⟩ := State.frameDue_eq_some.1 hdue
  rw [State.operandsOk_running hs] at ho
  cases p with
  | readCmd => cases hi; exact State.quadReadFrame_wf ho
  | writeCmd => cases hi; exact State.programFrame_wf hv ho
  | eraseCmd =>
    cases hi
    obtain ⟨he, hc⟩ := Bool.and_eq_true_iff.1 ho
    exact State.sectorFrame_wf he hc
  | gateWren _ | initRsten | initRstmem | initEn4b | enter4bEn4b | chipCmd | statusCmd => cases hi; rfl
  | _ => cases hi

end Sys2Proof.Machine

/-! ## O14: the order of READ's and WRITE's operand checks (spec/60 R320) -/

namespace Sys2Proof.Machine

/-- With no request running and MMAP = 0, a request whose operands step 4 of R320 rejects is the fault of the first check that fails. -/
theorem exec_operandFault {s : State} {i : Instr} {r : Fault} (hport : i.port = .req) (hf : ∀ r, s.seq ≠ .faulted r)
    (hb : s.stat.busy = false) (hm : s.stat.mmap = false) (hop : s.operandFault i = some r) :
    exec i s = .next { s with seq := .faulted r } := by
  rw [exec_request hport, hop]
  exact State.present_ok hf hb (.inl hm) _

/-- Settles O14: step 4 of R320 is the same for READ and WRITE, and its three tests stand in this order. -/
theorem transferFaultOrder : Obligations.TransferFaultOrder := by
  intro s hf hb hm i hi a0 a1 a2 range encodable buffer
  have faults {r : Fault} (h : s.transferFault = some r) : exec i s = .next { s with seq := .faulted r } := by
    rcases hi with rfl | rfl <;> exact exec_operandFault rfl hf hb hm h
  have hencodable : s.stat.addr4 = false ∧ ¬ (a0 < 2 ^ 24 ∧ a0 + a1 ≤ 2 ^ 24) ↔ ¬ encodable := by
    simp only [encodable, not_or, Bool.not_eq_true]
  have hbuffer : a2 + a1 ≤ 2 ^ 32 ∧ s.cfg.bufferOk a2 a1 = true ↔ buffer := by rw [Params.bufferOk_iff]
  refine ⟨fun h1 => faults ?_, fun h1 h2 => faults ?_, fun h1 h2 h3 => faults ?_⟩
  · exact if_pos h1
  · exact (if_neg (not_not_intro h1)).trans (if_pos (hencodable.2 h2))
  · exact (if_neg (not_not_intro h1)).trans ((if_neg fun h => hencodable.1 h h2).trans (if_pos fun h => h3 (hbuffer.1 h)))

end Sys2Proof.Machine

/-! ## O43: the chunks of a WRITE (spec/44 R251, R254, R255) -/

namespace Sys2Proof.Machine

/-- A later chunk is a page, or the rest of the range. -/
theorem chunkAt_size (P a n k : Nat) : (chunkAt P a n (k + 1)).2 = min P (a + n - (chunkAt P a n (k + 1)).1) := rfl

section
variable {P : Nat} (hP : 0 < P) (a n : Nat)
include hP

theorem chunkCount_pos : 0 < chunkCount P a n := by
  unfold chunkCount
  split
  · exact Nat.one_pos
  · exact Nat.div_pos (by omega) hP

/-- Chunk `k + 1` is one of the chunks when the first one, up to the end of its page, and `k` whole pages end inside the range. -/
theorem lt_chunkCount_iff (k : Nat) : k + 1 < chunkCount P a n ↔ P - a % P + k * P < n := by
  have hmod := Nat.mod_lt a hP
  unfold chunkCount
  split
  · omega
  · rw [← Nat.succ_le_iff, Nat.le_div_iff_mul_le hP, show (k + 1).succ * P = k * P + P + P by simp only [Nat.succ_eq_add_one, Nat.add_mul]; omega]
    omega

/-- A later chunk starts where the pages before it end. -/
theorem chunkAt_start {k : Nat} (h : k + 1 < chunkCount P a n) : (chunkAt P a n (k + 1)).1 = a + (P - a % P) + k * P := by
  rw [lt_chunkCount_iff hP] at h
  rw [chunkAt, Nat.min_eq_right (by omega : P - a % P ≤ n)]

/-- A later chunk starts at a page boundary. -/
theorem chunkAt_start_mod {k : Nat} (h : k + 1 < chunkCount P a n) : (chunkAt P a n (k + 1)).1 % P = 0 := by
  rw [chunkAt_start hP a n h, Nat.add_mul_mod_self_right, mod_up a hP]

/-- No chunk passes the end of the page it starts in. -/
theorem chunkAt_size_le {k : Nat} (h : k < chunkCount P a n) : (chunkAt P a n k).2 ≤ P - (chunkAt P a n k).1 % P := by
  cases k with
  | zero => exact Nat.min_le_right _ _
  | succ k =>
    rw [chunkAt_start_mod hP a n h]
    exact Nat.min_le_left _ _

/-- Each chunk begins where the one before ends. -/
theorem chunkAt_adjacent {k : Nat} (h : k + 1 < chunkCount P a n) :
    (chunkAt P a n (k + 1)).1 = (chunkAt P a n k).1 + (chunkAt P a n k).2 := by
  cases k with
  | zero => simp [chunkAt]
  | succ k =>
    rw [chunkAt_size, chunkAt_start hP a n h, chunkAt_start hP a n (Nat.lt_of_succ_lt h)]
    rw [lt_chunkCount_iff hP a n, Nat.succ_mul] at h
    rw [Nat.succ_mul]
    omega

/-- The last chunk ends at the end of the range. -/
theorem chunkAt_last {k : Nat} (h : k + 1 = chunkCount P a n) : (chunkAt P a n k).1 + (chunkAt P a n k).2 = a + n := by
  have hlast := (lt_chunkCount_iff hP a n k).not.1 (Nat.not_lt_of_le (Nat.le_of_eq h.symm))
  cases k with
  | zero => simp only [chunkAt]; omega
  | succ k =>
    have hk : k + 1 < chunkCount P a n := by omega
    rw [chunkAt_size, chunkAt_start hP a n hk]
    rw [lt_chunkCount_iff hP a n] at hk
    rw [Nat.succ_mul] at hlast
    omega

/-- Whether one byte more starts a page. -/
theorem chunkCount_succ (hn : 0 < n) : chunkCount P a (n + 1) = chunkCount P a n + if (a + n) % P = 0 then 1 else 0 := by
  have hstep : (a % P + n) / P = (a % P + n - 1) / P + if P ∣ a % P + n then 1 else 0 := by
    have h : (a % P + n - 1 + 1) / P = _ := Nat.succ_div
    rwa [Nat.sub_add_cancel (by omega)] at h
  have hsum (m : Nat) (hm : 0 < m) : chunkCount P a m = (a % P + m - 1) / P + 1 := by
    rw [chunkCount, if_neg (by omega), ← Nat.add_div_right _ hP]
    congr 1
    omega
  rw [hsum (n + 1) (Nat.succ_pos n), hsum n hn, ← Nat.add_assoc, Nat.add_sub_cancel, hstep]
  simp only [Nat.dvd_iff_mod_eq_zero, Nat.mod_add_mod]
  omega

end

/-- Whether one byte more has a page boundary before it. -/
theorem boundariesInside_succ (P a : Nat) {n : Nat} (hn : 0 < n) :
    boundariesInside P a (n + 1) = boundariesInside P a n + if (a + n) % P = 0 then 1 else 0 := by
  rw [boundariesInside, List.range_succ, List.filter_append, List.length_append, ← boundariesInside]
  congr 1
  split
  · next h => simp [h, Nat.ne_of_gt hn]
  · next h => simp [h]

/-- The number of chunks is one more than the number of page boundaries strictly inside the range (spec/44 R255). -/
theorem chunkCount_eq {P : Nat} (hP : 0 < P) (a n : Nat) : chunkCount P a n = boundariesInside P a n + 1 := by
  induction n with
  | zero => rfl
  | succ n ih =>
    rcases Nat.eq_zero_or_pos n with rfl | hn
    · have hmod := Nat.mod_lt a hP
      rw [chunkCount, if_neg (by omega), show a % P + (0 + 1) + P - 1 = a % P + P by omega, Nat.add_div_right _ hP, Nat.div_eq_of_lt hmod]
      rfl
    · rw [chunkCount_succ hP a n hn, boundariesInside_succ P a hn, ih]
      omega

/-- Settles O43: the chunks are those of the closed form, and the first ends at a page boundary or at the end of the range. -/
theorem chunkCountIsBoundariesPlusOne : Obligations.ChunkCountIsBoundariesPlusOne := by
  intro P a n hP
  refine ⟨chunkCount_eq hP a n, by simp [chunks], fun c hc => ?_, fun k hk => chunkAt_adjacent hP a n hk,
    chunkAt_last hP a n (Nat.sub_add_cancel (chunkCount_pos hP a n))⟩
  obtain ⟨k, hk, rfl⟩ := List.mem_map.1 hc
  have hsize := chunkAt_size_le hP a n (List.mem_range.1 hk)
  exact ⟨hsize.trans (Nat.sub_le _ _), inOnePage_of_le hP hsize⟩

end Sys2Proof.Machine

/-! ## O36, O37: the run of READ (spec/44 R241 to R243) -/

namespace Sys2Proof.Machine

/-- READ, presented in `s`, after the answer `a` to its RxData: the QFR frame for the whole range was answered OK. -/
def State.readAnswered (s : State) (rest : List HostOp) (more : List Answer) (a : Answer) : State :=
  { State.accept .read (startOf .read) { s with host := rest } with
    seq := .running (State.after (State.accept .read (startOf .read) s) a .readData)
    cmdDesc := cmdRegs (s.desc .qfr s.args.arg0 s.args.arg1)
    transport := more
    trace := s.trace ++ exchange [(.issueCmd (s.desc .qfr s.args.arg0 s.args.arg1), .ok), (.rxData s.args.arg1.toNat, a)] }

/-- READ's frame and its answer bring it to RxData or to its end. -/
theorem run_read_cmd {s : State} {rest : List HostOp} {more : List Answer} {a : Answer} (h : s.presents 2 rest (a :: more))
    (hargs : s.transferArgsOk) (ha : ∀ d, admits (.issueCmd d) a = true) :
    Host.Core.run Sys2Proof.core 3 s = .next
      { State.accept .read (startOf .read) { s with host := rest } with
        seq := .running (orFinish a.good .readData .read .transportError)
        cmdDesc := cmdRegs (s.desc .qfr s.args.arg0 s.args.arg1)
        transport := more
        trace := s.trace ++ exchange [(.issueCmd (s.desc .qfr s.args.arg0 s.args.arg1), a)] } := by
  obtain ⟨ht, -, hr, -, hc, -, -⟩ := id h
  exact run_via 2 (step_accept h rfl (State.transferFault_none.2 hargs))
    (run_frame (p := .readCmd) ht rfl hc rfl (State.frameDesc_quadReadFrame _ _ _) hr (ha _) rfl)

/-- READ up to the answer to RxData. -/
theorem run_read_answered {s : State} {rest : List HostOp} {more : List Answer} {a : Answer} (h : s.presents 2 rest (.ok :: a :: more))
    (hargs : s.transferArgsOk) (ha : admits (.rxData s.args.arg1.toNat) a = true) :
    Host.Core.run Sys2Proof.core 5 s = .next (s.readAnswered rest more a) := by
  obtain ⟨ht, -, -, -, hc, -, -⟩ := id h
  refine (run_then 3 2 (run_read_cmd h hargs fun _ => rfl) (run_data (p := .readData) ht rfl hc rfl rfl rfl ha rfl)).trans ?_
  simp only [exchange, List.append_assoc, List.cons_append, List.nil_append]
  rfl

/-- Settles O36: READ's loop stores the bytes of the answer, from L_A2 on. -/
theorem readRunStoresTheBytes : Obligations.ReadRunStoresTheBytes := by
  intro s rest more bytes h hargs hlen hw
  obtain ⟨ht, -, -, -, hc, -, hm⟩ := id h
  obtain ⟨-, -, -, h32, -⟩ := id hargs
  have hanswered := run_read_answered h hargs (beq_iff_eq.2 hlen)
  obtain ⟨m, es, hstore, hbus, hbytes, hkeep⟩ := run_store bytes 0 (s := s.readAnswered rest more (.data bytes)) ht rfl hc hw
    (by rw [hlen]; exact h32)
  rw [← hlen, show 6 + bytes.length = 5 + bytes.length + 1 by omega]
  refine ⟨_, run_then _ 1 (run_then 5 _ hanswered hstore) (run_via 0 (step_finish ht rfl hc) (run_zero _)), rfl, Stat.eq_of_unmapped hm, rfl,
    rfl, ?_, hbytes, hkeep⟩
  refine (busEvents_append _ _).trans ?_
  rw [hbus, List.append_nil, State.readAnswered, busEvents_append, busEvents_exchange, hlen]

/-- Settles O37: a failed IssueCmd leads to `finish` at once, a failed RxData to the loop of free bytes. -/
theorem readRunFailures : Obligations.ReadRunFailures := by
  intro s rest more hargs hw
  obtain ⟨-, -, -, h32, -⟩ := id hargs
  refine ⟨fun h => ?_, fun h => ?_⟩
  all_goals obtain ⟨ht, -, -, -, hc, -, hm⟩ := id h
  · have hcmd := run_read_cmd h hargs fun _ => rfl
    exact ⟨_, run_then 3 1 hcmd (run_via 0 (step_finish ht rfl hc) (run_zero _)), rfl, Stat.eq_of_unmapped hm, rfl⟩
  · have hanswered := run_read_answered h hargs (a := .fail) rfl
    obtain ⟨m, es, hany, -, hbytes, hkeep⟩ := run_any s.args.arg1.toNat 0 (s := s.readAnswered rest more .fail) ht rfl hc hw
      (Nat.zero_add _) h32
    rw [show 6 + s.args.arg1.toNat = 5 + s.args.arg1.toNat + 1 by omega]
    exact ⟨_, run_then _ 1 (run_then 5 _ hanswered hany) (run_via 0 (step_finish ht rfl hc) (run_zero _)), rfl, Stat.eq_of_unmapped hm,
      hbytes, hkeep⟩

end Sys2Proof.Machine

/-! ## O38: the run of WRITE (spec/44 R250 to R258) -/

namespace Sys2Proof.Machine

/-! ### The cursors by chunk number (spec/44 R251) -/

/-- Where CUR stands after `k` chunks: at the start of chunk `k`, after the last one at the end of the range. -/
def chunkCur (P a n k : Nat) : Nat := if k < chunkCount P a n then (chunkAt P a n k).1 else a + n

/-- What CHUNK is after `k` chunks: the size of chunk `k`, after the last one 0. -/
def chunkLen (P a n k : Nat) : Nat := if k < chunkCount P a n then (chunkAt P a n k).2 else 0

/-- While a chunk is left the cursors are those of its closed form. -/
theorem chunkAt_eq {P a n k : Nat} (h : k < chunkCount P a n) : chunkAt P a n k = (chunkCur P a n k, chunkLen P a n k) := by
  rw [chunkCur, chunkLen, if_pos h, if_pos h]

theorem chunkCur_last (P a n : Nat) : chunkCur P a n (chunkCount P a n) = a + n := if_neg (Nat.lt_irrefl _)

section
variable {P : Nat} (hP : 0 < P) (a n : Nat)
include hP

theorem chunkCur_zero : chunkCur P a n 0 = a := if_pos (chunkCount_pos hP a n)

theorem chunkLen_zero : chunkLen P a n 0 = min n (P - a % P) := if_pos (chunkCount_pos hP a n)

/-- A chunk moves CUR by its size. -/
theorem chunkCur_succ {k : Nat} (h : k < chunkCount P a n) : chunkCur P a n (k + 1) = chunkCur P a n k + chunkLen P a n k := by
  rw [chunkCur, chunkCur, chunkLen, if_pos h, if_pos h]
  split
  · next hk => exact chunkAt_adjacent hP a n hk
  · next hk => exact (chunkAt_last hP a n (by omega)).symm

/-- CHUNK after a chunk: a page, or the rest of the range. -/
theorem chunkLen_succ (k : Nat) : chunkLen P a n (k + 1) = min P (a + n - chunkCur P a n (k + 1)) := by
  rw [chunkLen, chunkCur]
  split
  · rfl
  · omega

/-- The loop test: CUR is below the end of the range exactly when another chunk follows. -/
theorem chunkCur_succ_lt_iff (k : Nat) : chunkCur P a n (k + 1) < a + n ↔ k + 1 < chunkCount P a n := by
  rw [chunkCur]
  split
  · next hk =>
    rw [chunkAt_start hP a n hk]
    rw [lt_chunkCount_iff hP a n] at hk ⊢
    omega
  · next hk => omega

/-- CUR stays in the range. -/
theorem chunkCur_bounds {k : Nat} (h : k ≤ chunkCount P a n) : a ≤ chunkCur P a n k ∧ chunkCur P a n k ≤ a + n := by
  induction k with
  | zero => rw [chunkCur_zero hP]; omega
  | succ k ih =>
    have hstep := chunkCur_succ hP a n h
    have hlow := (ih (Nat.le_of_lt h)).1
    refine ⟨by omega, ?_⟩
    rcases Nat.lt_or_eq_of_le h with hk | hk
    · exact Nat.le_of_lt ((chunkCur_succ_lt_iff hP a n k).2 hk)
    · exact Nat.le_of_eq (hk ▸ chunkCur_last P a n)

end

/-! ### WRITE by chunk number -/

section
variable (s : State) (k : Nat)

/-- The number of chunks of a WRITE of the operands in ARG0 to ARG2. -/
abbrev State.writeCount : Nat := chunkCount s.cfg.pageSize s.args.arg0.toNat s.args.arg1.toNat

/-- Where CUR stands after `k` chunks of it. -/
abbrev State.writeCur : Nat := chunkCur s.cfg.pageSize s.args.arg0.toNat s.args.arg1.toNat k

/-- What CHUNK is after `k` chunks of it. -/
abbrev State.writeLen : Nat := chunkLen s.cfg.pageSize s.args.arg0.toNat s.args.arg1.toNat k

/-- The splitter's cursors after `k` chunks of it (spec/44 R251). -/
def State.writeCursor : Cursor :=
  ⟨BitVec.ofNat 32 (s.writeCur k), s.args.arg0 + s.args.arg1, BitVec.ofNat 32 (s.writeLen k),
    BitVec.ofNat 32 (s.writeCur k - s.args.arg0.toNat)⟩

variable (w b : Nat → List Byte)

/-- The calls and answers of its first `k` chunks. -/
def State.writeCalls : List (Call × Answer) :=
  (List.range k).flatMap fun j => s.chunkCalls (chunkAt s.cfg.pageSize s.args.arg0.toNat s.args.arg1.toNat j) (w j) (b j)

theorem State.writeCalls_succ : s.writeCalls (k + 1) w b =
    s.writeCalls k w b ++ s.chunkCalls (chunkAt s.cfg.pageSize s.args.arg0.toNat s.args.arg1.toNat k) (w k) (b k) := by
  rw [State.writeCalls, List.range_succ, List.flatMap_append, List.flatMap_singleton]
  rfl

/-- A chunk makes five calls (spec/44 R250). -/
theorem State.writeCalls_length : (s.writeCalls k w b).length = 5 * k := by
  induction k with
  | zero => rfl
  | succ k ih =>
    rw [State.writeCalls_succ, List.length_append, ih, Nat.mul_succ]
    rfl

/-- A chunk issues WREN and one PP frame (spec/44 R255). -/
theorem State.frames_writeCalls : frames (exchange (s.writeCalls k w b)) =
    ((List.range k).map (chunkAt s.cfg.pageSize s.args.arg0.toNat s.args.arg1.toNat)).flatMap
      fun c => [plainDesc s.cfg.cmdWren, s.desc .pp (BitVec.ofNat 32 c.1) (BitVec.ofNat 32 c.2)] := by
  rw [List.flatMap_map]
  induction k with
  | zero => rfl
  | succ k ih =>
    rw [State.writeCalls_succ, exchange_append, frames_append, ih, List.range_succ, List.flatMap_append, List.flatMap_singleton]
    rfl

/-- The bytes a chunk sends are those of the buffer for its part of the range (spec/44 R252). -/
theorem State.sentBytes_chunkCalls (c : Nat × Nat) (x y : List Byte) :
    sentBytes (exchange (s.chunkCalls c x y)) = s.bytesAt (s.args.arg2 + BitVec.ofNat 32 (c.1 - s.args.arg0.toNat)) c.2 :=
  List.append_nil _

/-- The chunks send the bytes of the buffer in order (spec/44 R258). -/
theorem State.sentBytes_writeCalls (hP : 0 < s.cfg.pageSize) (h : k ≤ s.writeCount) :
    sentBytes (exchange (s.writeCalls k w b)) = s.bytesAt s.args.arg2 (s.writeCur k - s.args.arg0.toNat) := by
  induction k with
  | zero => rw [State.writeCur, chunkCur_zero hP, Nat.sub_self]; rfl
  | succ k ih =>
    have hlow := (chunkCur_bounds hP s.args.arg0.toNat s.args.arg1.toNat (Nat.le_of_lt h)).1
    rw [State.writeCalls_succ, exchange_append, sentBytes_append, ih (Nat.le_of_lt h), State.sentBytes_chunkCalls, chunkAt_eq h,
      State.writeCur, State.writeCur, chunkCur_succ hP _ _ h, Nat.sub_add_comm hlow, State.bytesAt_add]

end

/-- A chunk's assignments bring the cursors to the next chunk (spec/44 R250). -/
theorem State.writeCursor_succ {s : State} {k : Nat} (hP : 0 < s.cfg.pageSize) (hend : s.args.arg0.toNat + s.args.arg1.toNat < 2 ^ 32)
    (hk : k < s.writeCount) :
    s.writeCursor (k + 1) =
      ⟨(s.writeCursor k).cur + (s.writeCursor k).chunk, (s.writeCursor k).enda,
        nextChunk s.cfg.pageSize ((s.writeCursor k).cur + (s.writeCursor k).chunk) (s.writeCursor k).enda,
        (s.writeCursor k).off + (s.writeCursor k).chunk⟩ := by
  have hlow := (chunkCur_bounds hP s.args.arg0.toNat s.args.arg1.toNat (Nat.le_of_lt hk)).1
  have hhigh := (chunkCur_bounds hP s.args.arg0.toNat s.args.arg1.toNat (Nat.succ_le_of_lt hk)).2
  have hcur : s.writeCur (k + 1) = s.writeCur k + s.writeLen k := chunkCur_succ hP _ _ hk
  have hnext : nextChunk s.cfg.pageSize (BitVec.ofNat 32 (s.writeCur (k + 1))) (s.args.arg0 + s.args.arg1) =
      BitVec.ofNat 32 (s.writeLen (k + 1)) := by
    rw [nextChunk, State.writeLen, chunkLen_succ hP, BitVec.toNat_add, BitVec.toNat_ofNat, Nat.mod_eq_of_lt hend,
      Nat.mod_eq_of_lt (Nat.lt_of_le_of_lt hhigh hend)]
  have hoff : s.writeCur (k + 1) - s.args.arg0.toNat = s.writeCur k - s.args.arg0.toNat + s.writeLen k := by
    rw [hcur, Nat.sub_add_comm hlow]
  simp only [State.writeCursor, ← BitVec.ofNat_add, ← hcur, hnext, hoff]

/-- After the last chunk CUR = ENDA, OFF is the length and CHUNK is 0. -/
theorem State.writeCursor_last (s : State) :
    s.writeCursor s.writeCount = ⟨s.args.arg0 + s.args.arg1, s.args.arg0 + s.args.arg1, 0, s.args.arg1⟩ := by
  rw [State.writeCursor, State.writeCur, chunkCur_last, State.writeLen, chunkLen, if_neg (Nat.lt_irrefl _), Nat.add_sub_cancel_left,
    BitVec.ofNat_add]
  simp only [BitVec.ofNat_toNat, BitVec.setWidth_eq]
  rfl

/-- The loop test: another chunk follows while CUR < ENDA. -/
theorem State.writeCursor_lt_iff {s : State} {k : Nat} (hP : 0 < s.cfg.pageSize) (hend : s.args.arg0.toNat + s.args.arg1.toNat < 2 ^ 32)
    (hk : k < s.writeCount) : (s.writeCursor (k + 1)).cur.toNat < (s.writeCursor (k + 1)).enda.toNat ↔ k + 1 < s.writeCount := by
  have hhigh := (chunkCur_bounds hP s.args.arg0.toNat s.args.arg1.toNat (Nat.succ_le_of_lt hk)).2
  rw [← chunkCur_succ_lt_iff hP]
  simp only [State.writeCursor, BitVec.toNat_add, BitVec.toNat_ofNat]
  rw [Nat.mod_eq_of_lt hend, Nat.mod_eq_of_lt (Nat.lt_of_le_of_lt hhigh hend)]

/-- `t` is WRITE, presented in `s` with the host program `rest` after it, after `k` of its chunks, its polls having taken the samples `w`
and `b`: it is before the next chunk, or at `finish`. -/
structure WriteAt (s : State) (rest : List HostOp) (w b : Nat → List Byte) (k : Nat) (t : State) : Prop where
  turns : t.turns = []
  seq : t.seq = .running (if k < s.writeCount then .gateWren .write else .finish .write .ok)
  call : t.call = none
  cfg : t.cfg = s.cfg
  stat : t.stat = s.stat.accepted
  host : t.host = rest
  mem : t.mem = s.mem
  latch : t.latch = ⟨3, s.args.arg0, s.args.arg1, s.args.arg2⟩
  cursor : t.cursor = s.writeCursor k
  bus : busEvents t.trace = busEvents s.trace ++ exchange (s.writeCalls k w b)

/-- WRITE's four assignments before the loop (spec/44 R250). -/
theorem run_write_enter {s : State} (ht : s.turns = []) (hs : s.seq = .running .writeCur) (hc : s.call = none) :
    Host.Core.run Sys2Proof.core 4 s = .next
      { s with
        seq := .running (.gateWren .write)
        cursor := ⟨s.latch.a0, s.latch.a0 + s.latch.a1, firstChunk s.cfg.pageSize s.latch.a0 s.latch.a1, 0⟩ } := by
  refine run_via 3 (step_perform ht hs hc rfl) (run_via 2 (step_perform ht rfl hc rfl) (run_via 1 (step_perform ht rfl hc rfl)
    (run_via 0 (step_perform ht rfl hc rfl) ?_)))
  rw [run_zero]
  simp only [State.perform, State.goto, State.setCur, State.setEnda, State.setChunk, State.setOff]

section
variable {s : State} {rest : List HostOp} {w b : Nat → List Byte}

/-- Acceptance and the four assignments bring WRITE to its first chunk. -/
theorem WriteAt.of_presents {answers : List Answer} (hP : 0 < s.cfg.pageSize) (h : s.presents 3 rest answers) (hargs : s.transferArgsOk) :
    ∃ t : State, Host.Core.run Sys2Proof.core 5 s = .next t ∧ WriteAt s rest w b 0 t ∧ t.transport = answers := by
  obtain ⟨ht, -, hr, -, hc, -, -⟩ := id h
  have hrun := run_via 4 (step_accept h rfl (State.transferFault_none.2 hargs)) (run_write_enter ht rfl hc)
  have hcursor : s.writeCursor 0 =
      ⟨s.args.arg0, s.args.arg0 + s.args.arg1, firstChunk s.cfg.pageSize s.args.arg0 s.args.arg1, 0⟩ := by
    simp only [State.writeCursor, State.writeCur, State.writeLen, chunkCur_zero hP, chunkLen_zero hP, Nat.sub_self, BitVec.ofNat_toNat,
      BitVec.setWidth_eq, firstChunk]
    rfl
  refine ⟨_, hrun, ⟨ht, ?_, hc, rfl, rfl, rfl, rfl, rfl, hcursor.symm, (List.append_nil _).symm⟩, hr⟩
  rw [if_pos (chunkCount_pos hP _ _)]

/-- A chunk whose calls succeed brings WRITE to the next one, or to `finish`. -/
theorem WriteAt.next {t : State} {k : Nat} {more : List Answer} (h : WriteAt s rest w b k t) (hP : 0 < s.cfg.pageSize)
    (hend : s.args.arg0.toNat + s.args.arg1.toNat < 2 ^ 32) (hk : k < s.writeCount)
    (hw : matchedSamples (welPoll s.cfg) (w k) = true) (hb : matchedSamples (readyPoll s.cfg) (b k) = true)
    (hr : t.transport =
      (s.chunkCalls (chunkAt s.cfg.pageSize s.args.arg0.toNat s.args.arg1.toNat k) (w k) (b k)).map Prod.snd ++ more) :
    ∃ u : State, Host.Core.run Sys2Proof.core (13 + s.writeLen k) t = .next u ∧ WriteAt s rest w b (k + 1) u ∧ u.transport = more := by
  obtain ⟨ht, hs, hc, hcfg, hstat, hhost, hmem, hlatch, hcursor, hbus⟩ := h
  rw [if_pos hk] at hs
  obtain ⟨es, u, hrun, hes, hu⟩ := run_chunk ht hs hc hr (by rwa [hcfg]) (by rwa [hcfg])
  have hcur : s.writeCur (k + 1) = s.writeCur k + s.writeLen k := chunkCur_succ hP _ _ hk
  have hhigh : s.writeCur (k + 1) ≤ _ := (chunkCur_bounds hP _ _ (Nat.succ_le_of_lt hk)).2
  have hlen : t.cursor.chunk.toNat = s.writeLen k := by
    rw [hcursor, State.writeCursor, BitVec.toNat_ofNat, Nat.mod_eq_of_lt (by omega)]
  have hnext := State.writeCursor_succ hP hend hk
  rw [hlen] at hrun hes
  have hucursor : u.cursor = s.writeCursor (k + 1) := by rw [hu, hnext, ← hcursor, ← hcfg]
  have hloop : u.writeLoop = if k + 1 < s.writeCount then .gateWren .write else .finish .write .ok := by
    rw [State.writeLoop, hucursor]
    exact if_congr (State.writeCursor_lt_iff hP hend hk) rfl rfl
  have hexchange : busEvents es = exchange
      (s.chunkCalls (chunkAt s.cfg.pageSize s.args.arg0.toNat s.args.arg1.toNat k) (w k) (b k)) := by
    have haddr4 : t.stat.addr4 = s.stat.addr4 := by rw [hstat]; rfl
    rw [hes, hcfg, hlatch, hcursor, State.desc_congr hcfg haddr4, State.bytesAt_congr hmem, chunkAt_eq hk]
    rfl
  refine ⟨_, hrun, ?_, ?_⟩
  · subst hu
    refine ⟨ht, congrArg _ hloop, hc, hcfg, hstat, hhost, hmem, hlatch, hucursor, ?_⟩
    rw [State.goto_trace, busEvents_append, hbus, hexchange, List.append_assoc, ← exchange_append, State.writeCalls_succ]
  · rw [State.goto_transport, hu]

/-- Successful calls bring WRITE past its first `k` chunks. -/
theorem WriteAt.reached {t : State} (h : WriteAt s rest w b 0 t) (hP : 0 < s.cfg.pageSize)
    (hend : s.args.arg0.toNat + s.args.arg1.toNat < 2 ^ 32) (hw : samplesMatch (welPoll s.cfg) s.writeCount w)
    (hb : samplesMatch (readyPoll s.cfg) s.writeCount b) {k : Nat} (hk : k ≤ s.writeCount) (more : List Answer)
    (hr : t.transport = (s.writeCalls k w b).map Prod.snd ++ more) :
    ∃ u : State, Host.Core.run Sys2Proof.core (13 * k + (s.writeCur k - s.args.arg0.toNat)) t = .next u ∧
      WriteAt s rest w b k u ∧ u.transport = more := by
  induction k generalizing more with
  | zero =>
    rw [State.writeCur, chunkCur_zero hP, Nat.sub_self]
    exact ⟨t, run_zero t, h, hr⟩
  | succ k ih =>
    rw [State.writeCalls_succ, List.map_append, List.append_assoc] at hr
    obtain ⟨u, hrun, hat, hu⟩ := ih (Nat.le_of_succ_le hk) _ hr
    obtain ⟨v, hnext, hv⟩ := hat.next hP hend hk (hw k hk) (hb k hk) hu
    have hlow : s.args.arg0.toNat ≤ s.writeCur k := (chunkCur_bounds hP _ _ (Nat.le_of_succ_le hk)).1
    have hcur : s.writeCur (k + 1) = s.writeCur k + s.writeLen k := chunkCur_succ hP _ _ hk
    have hsteps : 13 * (k + 1) + (s.writeCur (k + 1) - s.args.arg0.toNat) =
        13 * k + (s.writeCur k - s.args.arg0.toNat) + (13 + s.writeLen k) := by omega
    exact ⟨v, hsteps ▸ run_then _ _ hrun hnext, hv⟩

end

/-- Settles O38: the chunks, one after the other, bring WRITE to `finish`. -/
theorem writeRunIssuesTheChunks : Obligations.WriteRunIssuesTheChunks := by
  intro s rest more w b P a n count calls hv hargs hw hb h
  obtain ⟨hsector, hP, -, hflash⟩ := Params.valid_sizes hv
  obtain ⟨-, hrange, -⟩ := id hargs
  have hend : a + n < 2 ^ 32 := by omega
  obtain ⟨-, -, -, -, -, -, hm⟩ := id h
  obtain ⟨t, hstart, hat, hr⟩ := WriteAt.of_presents (w := w) (b := b) hP h hargs
  obtain ⟨u, hrun, ⟨ht, hs, hc, hcfg, hstat, hhost, hmem, -, hcursor, hbus⟩, hmore⟩ :=
    hat.reached hP hend hw hb (Nat.le_refl _) more hr
  rw [if_neg (Nat.lt_irrefl _)] at hs
  have hlast : s.writeCur count = a + n := chunkCur_last ..
  rw [hlast, Nat.add_sub_cancel_left] at hrun
  rw [show 6 + 13 * count + n = 5 + (13 * count + n) + 1 by omega]
  refine ⟨_, run_then _ 1 (run_then 5 _ hstart hrun) (run_via 0 (step_finish ht hs hc) (run_zero _)), rfl, ?_, hhost, hmore,
    hcursor.trans s.writeCursor_last, hmem, hbus, ?_, ?_, ?_⟩
  · rw [State.finish_stat, hstat]
    exact Stat.eq_of_unmapped hm
  · rw [State.finish_trace, ← frames_busEvents, hbus, frames_append, frames_busEvents, State.frames_writeCalls]
    rfl
  · rw [State.finish_trace, ← sentBytes_busEvents, hbus, sentBytes_append, sentBytes_busEvents,
      State.sentBytes_writeCalls s _ w b hP (Nat.le_refl _), hlast, Nat.add_sub_cancel_left]
  · rw [State.finish_trace, hbus, List.length_append, exchange_length, State.writeCalls_length]
    exact congrArg _ (Nat.mul_assoc 2 5 _).symm

end Sys2Proof.Machine

/-! ## O15: the order of ERASE_SECTOR_RANGE's operand checks (spec/45 R271) -/

namespace Sys2Proof.Machine

/-- Settles O15: the three tests of R271 stand in this order. -/
theorem eraseFaultOrder : Obligations.EraseFaultOrder := by
  intro s hf hb hm a0 a1
  have faults {r : Fault} (h : s.eraseFault = some r) : exec .erase s = .next { s with seq := .faulted r } :=
    exec_operandFault rfl hf hb hm h
  refine ⟨fun h1 => faults ?_, fun h1 h2 => faults ?_, fun h1 h2 h3 h4 => faults ?_⟩
  · exact if_pos h1
  · exact (if_neg (Nat.not_lt.2 h1)).trans (if_pos h2)
  · exact (if_neg (Nat.not_lt.2 h1)).trans ((if_neg (Nat.not_le.2 h2)).trans (if_pos ⟨h3, h4⟩))

end Sys2Proof.Machine

/-! ## O44: the sectors of an erase (spec/45 R273, R275) -/

namespace Sys2Proof.Machine

theorem sectorBase_eq_mul (S a : Nat) : sectorBase S a = S * sectorOf S a :=
  Nat.sub_eq_of_eq_add (Nat.div_add_mod a S).symm

/-- Frame `k` erases the sector `k` after that of the start. -/
theorem eraseAddrAt_eq_mul (S a k : Nat) : eraseAddrAt S a k = S * (sectorOf S a + k) := by
  rw [eraseAddrAt, sectorBase_eq_mul, Nat.mul_add, Nat.mul_comm k]

theorem eraseAddrAt_succ (S a k : Nat) : eraseAddrAt S a (k + 1) = eraseAddrAt S a k + S := by
  rw [eraseAddrAt, eraseAddrAt, Nat.succ_mul, Nat.add_assoc]

theorem eraseCount_pos (S a e : Nat) : 0 < eraseCount S a e := Nat.succ_pos _

/-- The count of R275 is the source's formula. -/
theorem eraseCount_eq {S : Nat} (hS : 0 < S) (a e : Nat) : eraseCount S a e = (e - sectorBase S a + 1 + S - 1) / S := by
  have hdiff : (e - S * sectorOf S a) / S = sectorOf S e - sectorOf S a := Nat.sub_mul_div e S (sectorOf S a)
  rw [show e - sectorBase S a + 1 + S - 1 = e - sectorBase S a + S by omega, Nat.add_div_right _ hS, sectorBase_eq_mul, hdiff]
  rfl

section
variable {S a e : Nat} (hS : 0 < S) (h : a ≤ e)
include hS h

/-- The loop test: the address of frame `k` is not past the end exactly when the sector is one of those to erase (spec/45 R272). -/
theorem eraseAddrAt_le_iff (k : Nat) : eraseAddrAt S a k ≤ e ↔ k < eraseCount S a e := by
  have hle : sectorOf S a ≤ sectorOf S e := Nat.div_le_div_right h
  have htest : S * (sectorOf S a + k) ≤ e ↔ sectorOf S a + k ≤ sectorOf S e := by
    rw [Nat.mul_comm, sectorOf, sectorOf, Nat.le_div_iff_mul_le hS]
  rw [eraseAddrAt_eq_mul, htest, eraseCount]
  omega

/-- CUR never passes the end by more than a sector. -/
theorem eraseAddrAt_le {k : Nat} (hk : k ≤ eraseCount S a e) : eraseAddrAt S a k ≤ e + S := by
  cases k with
  | zero =>
    have hfirst := (eraseAddrAt_le_iff hS h 0).2 (eraseCount_pos S a e)
    omega
  | succ k =>
    rw [eraseAddrAt_succ]
    exact Nat.add_le_add_right ((eraseAddrAt_le_iff hS h k).2 hk) S

/-- A sector from that of the start to that of the end holds a byte of the range: the start, or its own first byte. -/
theorem exists_in_sector {q : Nat} (hlow : sectorOf S a ≤ q) (hhigh : q ≤ sectorOf S e) : ∃ y, a ≤ y ∧ y ≤ e ∧ sectorOf S y = q := by
  rcases Nat.eq_or_lt_of_le hlow with hq | hq
  · exact ⟨a, Nat.le_refl a, h, hq⟩
  · refine ⟨q * S, ?_, (Nat.le_div_iff_mul_le hS).1 hhigh, Nat.mul_div_cancel q hS⟩
    exact Nat.le_of_lt ((Nat.div_lt_iff_lt_mul hS).1 hq)

theorem mem_eraseAddrs_iff (x : Nat) : x ∈ eraseAddrs S a e ↔ x % S = 0 ∧ ∃ y, a ≤ y ∧ y ≤ e ∧ sectorBase S y = x := by
  have hle : sectorOf S a ≤ sectorOf S e := Nat.div_le_div_right h
  simp only [eraseAddrs, List.mem_map, List.mem_range, eraseAddrAt_eq_mul, sectorBase_eq_mul]
  constructor
  · rintro ⟨k, hk, rfl⟩
    obtain ⟨y, hay, hye, hy⟩ := exists_in_sector (q := sectorOf S a + k) hS h (Nat.le_add_right _ _)
      (by rw [eraseCount] at hk; omega)
    exact ⟨Nat.mul_mod_right _ _, y, hay, hye, by rw [hy]⟩
  · rintro ⟨-, y, hay, hye, rfl⟩
    have hlow : sectorOf S a ≤ sectorOf S y := Nat.div_le_div_right hay
    have hhigh : sectorOf S y ≤ sectorOf S e := Nat.div_le_div_right hye
    exact ⟨sectorOf S y - sectorOf S a, by rw [eraseCount]; omega, by rw [Nat.add_sub_cancel' hlow]⟩

end

/-- Settles O44: an address is erased iff it is the boundary of a sector from that of the start to that of the end. -/
theorem eraseCountIsTheFormula : Obligations.EraseCountIsTheFormula := fun _ _ _ hS h =>
  ⟨eraseCount_eq hS _ _, by simp [eraseAddrs], mem_eraseAddrs_iff hS h⟩

end Sys2Proof.Machine

/-! ## O40: the run of ERASE_CHIP (spec/45 R280 to R282) -/

namespace Sys2Proof.Machine

/-- ERASE_CHIP up to its `finish`, where the gate and CE succeed and the CHIP poll answers `a`. -/
theorem run_chip_answered {s : State} {rest : List HostOp} {more : List Answer} {w : List Byte} {a : Answer}
    (h : s.presents 5 rest (.ok :: .matched w :: .ok :: a :: more)) (hw : matchedSamples (welPoll s.cfg) w = true)
    (ha : admits (readyCall s.cfg .chip) a = true) :
    Host.Core.run Sys2Proof.core 9 s = .next
      { State.accept .eraseChip (startOf .eraseChip) { s with host := rest } with
        seq := .running (orFinish a.good (.finish .eraseChip .ok) .eraseChip .timeoutError)
        cmdDesc := cmdRegs (statusDesc s.cfg.cmdRdsr), pollDesc := pollRegs (readyPoll s.cfg), pollClass := PollClass.chip.bits
        transport := more
        trace := s.trace ++ exchange
          (gateCalls s.cfg w ++ [(plainCall s.cfg.cmdCe, .ok), (readyCall s.cfg .chip, a)]) } := by
  obtain ⟨ht, -, hr, -, hc, -, -⟩ := id h
  have hrun := run_then 4 4 (run_gate (s := State.accept .eraseChip (startOf .eraseChip) { s with host := rest }) ht rfl hc hr hw)
    (run_plain_ready (p := .chipCmd) ht rfl hc rfl rfl (fun _ => rfl) (fun _ => rfl) (fun _ => rfl) rfl ha fun _ => rfl)
  refine (run_via 8 (step_accept h rfl rfl) hrun).trans ?_
  rw [exchange_append, ← List.append_assoc]
  rfl

/-- Settles O40: the answer to the CHIP poll decides the code of `finish`. -/
theorem eraseChipRuns : Obligations.EraseChipRuns := by
  intro s rest more w b y hw hb hy
  refine ⟨fun h => ?_, fun h => ?_⟩
  all_goals obtain ⟨ht, -, -, -, hc, -, hm⟩ := id h
  · exact ⟨_, run_then 9 1 (run_chip_answered h hw hb) (run_via 0 (step_finish ht rfl hc) (run_zero _)), rfl, Stat.eq_of_unmapped hm, rfl,
      rfl, rfl⟩
  · exact ⟨_, run_then 9 1 (run_chip_answered h hw hy) (run_via 0 (step_finish ht rfl hc) (run_zero _)), rfl, Stat.eq_of_unmapped hm⟩

end Sys2Proof.Machine

/-! ## O39: the run of ERASE_SECTOR_RANGE (spec/45 R272 to R275) -/

namespace Sys2Proof.Machine

section
variable (s : State) (k : Nat)

/-- The number of sectors of an ERASE_SECTOR_RANGE of the operands in ARG0 and ARG1. -/
abbrev State.sectorTotal : Nat := eraseCount s.cfg.sectorSize s.args.arg0.toNat s.args.arg1.toNat

/-- Where CUR stands after `k` sectors of it. -/
abbrev State.sectorCur : Nat := eraseAddrAt s.cfg.sectorSize s.args.arg0.toNat k

/-- The splitter's cursors after `k` sectors of it (spec/45 R272): CHUNK and OFF are not written. -/
def State.sectorCursor : Cursor := ⟨BitVec.ofNat 32 (s.sectorCur k), s.args.arg1, s.cursor.chunk, s.cursor.off⟩

/-- CUR <- CUR + S brings the cursors to the next sector (spec/45 R272). -/
theorem State.sectorCursor_succ : s.sectorCursor (k + 1) =
    { s.sectorCursor k with cur := (s.sectorCursor k).cur + BitVec.ofNat 32 s.cfg.sectorSize } := by
  rw [State.sectorCursor, State.sectorCur, eraseAddrAt_succ, BitVec.ofNat_add]
  rfl

variable (w b : Nat → List Byte)

/-- The calls and answers of its first `k` sectors. -/
def State.eraseCalls : List (Call × Answer) := (List.range k).flatMap fun j => s.sectorCalls (s.sectorCur j) (w j) (b j)

theorem State.eraseCalls_succ : s.eraseCalls (k + 1) w b = s.eraseCalls k w b ++ s.sectorCalls (s.sectorCur k) (w k) (b k) := by
  rw [State.eraseCalls, List.range_succ, List.flatMap_append, List.flatMap_singleton]
  rfl

/-- A sector makes four calls (spec/45 R272). -/
theorem State.eraseCalls_length : (s.eraseCalls k w b).length = 4 * k := by
  induction k with
  | zero => rfl
  | succ k ih =>
    rw [State.eraseCalls_succ, List.length_append, ih, Nat.mul_succ]
    rfl

/-- A sector issues WREN and one SE frame (spec/45 R273). -/
theorem State.frames_eraseCalls : frames (exchange (s.eraseCalls k w b)) =
    ((List.range k).map s.sectorCur).flatMap fun x => [plainDesc s.cfg.cmdWren, s.desc .se (BitVec.ofNat 32 x) 0] := by
  rw [List.flatMap_map]
  induction k with
  | zero => rfl
  | succ k ih =>
    rw [State.eraseCalls_succ, exchange_append, frames_append, ih, List.range_succ, List.flatMap_append, List.flatMap_singleton]
    rfl

end

/-- `t` is ERASE_SECTOR_RANGE, presented in `s` with the host program `rest` after it, after `k` of its sectors, its polls having taken the
samples `w` and `b`: it is before the next sector, or at `finish`. -/
structure EraseAt (s : State) (rest : List HostOp) (w b : Nat → List Byte) (k : Nat) (t : State) : Prop where
  turns : t.turns = []
  seq : t.seq = .running (if k < s.sectorTotal then .gateWren .erase else .finish .erase .ok)
  call : t.call = none
  cfg : t.cfg = s.cfg
  stat : t.stat = s.stat.accepted
  host : t.host = rest
  mem : t.mem = s.mem
  cursor : t.cursor = s.sectorCursor k
  trace : t.trace = s.trace ++ exchange (s.eraseCalls k w b)

section
variable {s : State} {rest : List HostOp} {w b : Nat → List Byte} (hv : s.cfg.valid = true) (hargs : s.eraseArgsOk)
include hv hargs

/-- CUR does not wrap, not even past the last sector (spec/00 R7). -/
theorem State.sectorCursor_cur {k : Nat} (hk : k ≤ s.sectorTotal) : (s.sectorCursor k).cur.toNat = s.sectorCur k := by
  obtain ⟨hS, -, -, hflash⟩ := Params.valid_sizes hv
  obtain ⟨horder, hrange, -⟩ := hargs
  have hbound : s.sectorCur k ≤ _ := eraseAddrAt_le hS horder hk
  rw [State.sectorCursor, BitVec.toNat_ofNat, Nat.mod_eq_of_lt (by omega)]

/-- Where the loop test leads after `k` sectors. -/
theorem State.eraseLoop_eq {t : State} {k : Nat} (hk : k ≤ s.sectorTotal) (hcursor : t.cursor = s.sectorCursor k) :
    t.eraseLoop = if k < s.sectorTotal then .gateWren .erase else .finish .erase .ok := by
  rw [State.eraseLoop, hcursor, State.sectorCursor_cur hv hargs hk]
  exact if_congr (eraseAddrAt_le_iff (Params.valid_sizes hv).1 hargs.1 k) rfl rfl

/-- Acceptance and the two assignments before the loop bring ERASE_SECTOR_RANGE to its first sector. -/
theorem EraseAt.of_presents {answers : List Answer} (h : s.presents 4 rest answers) :
    ∃ t : State, Host.Core.run Sys2Proof.core 3 s = .next t ∧ EraseAt s rest w b 0 t ∧ t.transport = answers := by
  obtain ⟨ht, -, hr, -, hc, -, -⟩ := id h
  have hrun := run_via 2 (step_accept h rfl (State.eraseFault_none.2 hargs))
    (run_via 1 (step_perform ht rfl hc rfl) (run_via 0 (step_perform ht rfl hc rfl) (run_zero _)))
  have hcursor : s.sectorCursor 0 =
      ⟨BitVec.ofNat 32 (sectorBase s.cfg.sectorSize s.args.arg0.toNat), s.args.arg1, s.cursor.chunk, s.cursor.off⟩ := by
    rw [State.sectorCursor, State.sectorCur, eraseAddrAt, Nat.zero_mul, Nat.add_zero]
  refine ⟨_, hrun, ⟨ht, ?_, hc, rfl, rfl, rfl, rfl, hcursor.symm, (List.append_nil _).symm⟩, hr⟩
  exact congrArg Seq.running (State.eraseLoop_eq hv hargs (Nat.zero_le _) hcursor.symm)

/-- A sector whose calls succeed brings ERASE_SECTOR_RANGE to the next one, or to `finish`. -/
theorem EraseAt.next {t : State} {k : Nat} {more : List Answer} (h : EraseAt s rest w b k t) (hk : k < s.sectorTotal)
    (hw : matchedSamples (welPoll s.cfg) (w k) = true) (hb : matchedSamples (readyPoll s.cfg) (b k) = true)
    (hr : t.transport = (s.sectorCalls (s.sectorCur k) (w k) (b k)).map Prod.snd ++ more) :
    ∃ u : State, Host.Core.run Sys2Proof.core 9 t = .next u ∧ EraseAt s rest w b (k + 1) u ∧ u.transport = more := by
  obtain ⟨ht, hs, hc, hcfg, hstat, hhost, hmem, hcursor, htrace⟩ := h
  rw [if_pos hk] at hs
  obtain ⟨u, hrun, hu⟩ := run_sector ht hs hc hr (by rwa [hcfg]) (by rwa [hcfg])
  have hucursor : u.cursor = s.sectorCursor (k + 1) := by rw [hu, s.sectorCursor_succ, ← hcursor, ← hcfg]
  have hloop := State.eraseLoop_eq hv hargs hk hucursor
  have hdesc : t.desc = s.desc := State.desc_congr hcfg (by rw [hstat]; rfl)
  have hutrace : u.trace = s.trace ++ exchange (s.eraseCalls (k + 1) w b) := by
    have hsector : u.trace = t.trace ++ exchange (s.sectorCalls (s.sectorCur k) (w k) (b k)) := by
      rw [hu, hcfg, hcursor, hdesc]
      rfl
    rw [hsector, htrace, s.eraseCalls_succ, exchange_append, List.append_assoc]
  subst hu
  exact ⟨_, hrun, ⟨ht, congrArg _ hloop, hc, hcfg, hstat, hhost, hmem, hucursor, hutrace⟩, rfl⟩

/-- Successful calls bring ERASE_SECTOR_RANGE past its first `k` sectors. -/
theorem EraseAt.reached {t : State} (h : EraseAt s rest w b 0 t) (hw : samplesMatch (welPoll s.cfg) s.sectorTotal w)
    (hb : samplesMatch (readyPoll s.cfg) s.sectorTotal b) {k : Nat} (hk : k ≤ s.sectorTotal) (more : List Answer)
    (hr : t.transport = (s.eraseCalls k w b).map Prod.snd ++ more) :
    ∃ u : State, Host.Core.run Sys2Proof.core (9 * k) t = .next u ∧ EraseAt s rest w b k u ∧ u.transport = more := by
  induction k generalizing more with
  | zero => exact ⟨t, run_zero t, h, hr⟩
  | succ k ih =>
    rw [State.eraseCalls_succ, List.map_append, List.append_assoc] at hr
    obtain ⟨u, hrun, hat, hu⟩ := ih (Nat.le_of_succ_le hk) _ hr
    obtain ⟨v, hnext, hv⟩ := hat.next hv hargs hk (hw k hk) (hb k hk) hu
    exact ⟨v, run_then (9 * k) 9 hrun hnext, hv⟩

end

/-- Settles O39: the sectors, one after the other, bring ERASE_SECTOR_RANGE to `finish`. -/
theorem eraseRunIssuesTheSectors : Obligations.EraseRunIssuesTheSectors := by
  intro s rest more w b S a count calls hv hargs hw hb h
  obtain ⟨-, -, -, -, -, -, hm⟩ := id h
  obtain ⟨t, hstart, hat, hr⟩ := EraseAt.of_presents (w := w) (b := b) hv hargs h
  obtain ⟨u, hrun, ⟨ht, hs, hc, hcfg, hstat, hhost, hmem, hcursor, htrace⟩, hmore⟩ :=
    hat.reached hv hargs hw hb (Nat.le_refl _) more hr
  rw [if_neg (Nat.lt_irrefl _)] at hs
  have hbus : busEvents u.trace = busEvents s.trace ++ exchange (s.eraseCalls count w b) := by
    rw [htrace, busEvents_append, busEvents_exchange]
  rw [show 4 + 9 * count = 3 + 9 * count + 1 by omega]
  refine ⟨_, run_then _ 1 (run_then 3 _ hstart hrun) (run_via 0 (step_finish ht hs hc) (run_zero _)), rfl, ?_, hhost, hmore,
    congrArg Cursor.enda hcursor, ?_, (congrArg Cursor.chunk hcursor :), (congrArg Cursor.off hcursor :), hmem, hbus, ?_, ?_⟩
  · rw [State.finish_stat, hstat]
    exact Stat.eq_of_unmapped hm
  · rw [State.finish_cursor, hcursor, State.sectorCursor_cur hv hargs (Nat.le_refl _)]
    rfl
  · rw [State.finish_trace, htrace, frames_append, State.frames_eraseCalls]
    rfl
  · rw [State.finish_trace, hbus, List.length_append, exchange_length, State.eraseCalls_length]
    exact congrArg _ (Nat.mul_assoc 2 4 _).symm

end Sys2Proof.Machine

/-! ## O42: the run of GET_GEOMETRY (spec/46 R295) -/

namespace Sys2Proof.Machine

/-- An accepted GET_GEOMETRY that has finished leaves its result and the latch, and an idle machine is idle again. -/
theorem State.finish_accept_getGeometry {s : State} (hs : s.seq = .idle) :
    (s.accept .getGeometry (startOf .getGeometry)).finish .ok =
      { s with
        latch := ⟨7, s.args.arg0, s.args.arg1, s.args.arg2⟩
        stat := { s.stat with result := .ok, busy := false, done := true } } := by
  rw [hs]
  rfl

/-- Settles O42: GET_GEOMETRY is accepted in either mode, and its program is `finish`. -/
theorem getGeometryRuns : Obligations.GetGeometryRuns := by
  intro s rest ht hh hs hc hb
  have hnotFaulted : ∀ r, s.seq ≠ .faulted r := fun r hr => by cases hs.symm.trans hr
  have haccept : step s = .next (State.accept .getGeometry (startOf .getGeometry) { s with host := rest }) :=
    (step_request ht hs hh hb rfl).trans (exec_getGeometry hnotFaulted hb)
  rw [run_via 1 haccept (run_via 0 (step_finish ht rfl hc) (run_zero _))]
  exact congrArg _ (State.finish_accept_getGeometry (s := { s with host := rest }) hs)

end Sys2Proof.Machine

/-! ## O16, O17: a REQ write while a request runs, and an illegal word (spec/60 R310, R320, R321) -/

namespace Sys2Proof.Machine

/-- Step 1 of R320 comes before the word is looked at. -/
theorem State.hostReqWrite_busy {s : State} (w : Word) (hb : s.stat.busy = true) : s.hostReqWrite w = s.raise .reqWhileBusy :=
  if_pos hb

/-- Settles O16: BUSY is the first check of the REQ write and of every request's acceptance. -/
theorem requestWhileBusyFaults : Obligations.RequestWhileBusyFaults := by
  intro s w hb hf
  refine ⟨State.hostReqWrite_busy w hb, fun i hport => ?_⟩
  rw [exec_request hport]
  exact State.present_busy hf hb

/-- Settles O17: the word does not decode, so the write is neither a fault nor an acceptance. -/
theorem illegalWordNotSupported : Obligations.IllegalWordNotSupported := by
  intro s w rest ts ht hh hf hb hw
  have hd := decodeRequest_illegal hw
  calc step s = State.hostReqWrite w { s with turns := ts, host := rest } := step_regWrite ht hf hh
    _ = .next (State.illegalWord { s with turns := ts, host := rest }) := State.hostReqWrite_illegal hb hd

end Sys2Proof.Machine

/-! ## O22: after a model fault (spec/60 R310, spec/70 R340) -/

namespace Sys2Proof.Machine

/-- Taking a turn does not change SEQ. -/
@[simp] theorem State.takeTurn_seq (s : State) : s.takeTurn.2.seq = s.seq := by
  unfold State.takeTurn
  split <;> rfl

/-- Each agent's turn in a faulted state answers the fault. -/
theorem State.runTurn_faulted {s : State} {r : Fault} {u : Turn} (hs : s.seq = .faulted r) (hu : u ≠ .blockReset) :
    s.runTurn u = .fault r := by
  cases u with
  | blockReset => exact absurd rfl hu
  | host => simp only [State.runTurn, hs]
  | sequencer => simp only [State.runTurn, State.sequencerTurn, hs]
  | transport => simp only [State.runTurn, State.transportTurn, hs]

/-- Settles O22: taking a turn does not change SEQ, each agent's turn answers it, and block reset is a turn in every state. -/
theorem faultIsSticky : Obligations.FaultIsSticky := by
  intro s r hs
  refine ⟨fun hu => State.runTurn_faulted (s.takeTurn_seq.trans hs) hu, fun hu => ⟨s.takeTurn.2.blockReset, ?_, rfl⟩⟩
  rw [step, hu]
  rfl

end Sys2Proof.Machine

/-! ## O54: the codes a request can return (spec/60 R301, R303) -/

namespace Sys2Proof.Machine

/-- The only move that ends a running request is its `finish`. -/
theorem Move.completes {s t : State} {p : Pos} (hs : s.seq = .running p) (h : Move s t) (ht : t.seq = .idle) :
    ∃ i c, p = .finish i c ∧ t = s.finish c := by
  cases h with
  | perform q hq _ hfr =>
    cases hs.symm.trans hq
    rcases s.perform_goes hfr with ⟨hstay, -, -⟩ | ⟨-, ⟨q, hgo, -⟩, -⟩ | hfinish
    · cases ht.symm.trans (hstay.trans hs)
    · cases ht.symm.trans hgo
    · exact hfinish
  | answer _ _ _ _ _ _ _ _ | fault _ _ | accept _ _ _ _ _ _ => cases ht
  | stay | issue _ _ _ _ _ _ _ | illegal _ _ | arg _ _ | observe _ _ _ | store _ _ _ _ => cases hs.symm.trans ht

/-- Settles O54: the completing move is `finish`, and the control invariant has its code in the request's row. -/
theorem resultCodesByRequest : Obligations.ResultCodesByRequest := by
  intro s t p hi hs hn h ht
  obtain ⟨ts, ⟨hr, -⟩ | ⟨-, -, hm⟩⟩ := step_move h
  · exact absurd hr hn
  · obtain ⟨i, c, rfl, rfl⟩ := Move.completes (s := { s with turns := ts }) hs hm ht
    obtain ⟨-, -, -, hcode, -, -⟩ := State.controlInv_running hi hs
    exact ⟨rfl, rfl, hcode i c rfl⟩

end Sys2Proof.Machine
